-- ==== Sys2Proof/Word.lean ====
section
/-! DEFINITION. The two word types of the block (R9, R10): bytes and 32-bit register words, both unsigned. -/

namespace Sys2Proof

/-- `u8` of R10: a byte. -/
abbrev Byte := BitVec 8

/-- `u32` of R10: the contents of a host register, a length field or a checksum field (R9). -/
abbrev Word := BitVec 32

end Sys2Proof
end

