-- ==== Sys2Proof/Config.lean ====
section
/-! DEFINITION. The implementation parameters of R8, held as one record, and the free values of R50, R56 and R86. -/

namespace Sys2Proof

/-- `P_NONUTF8_MATCH` of R8: what a by-type search does at a stored type that is not valid UTF-8 (R172). -/
inductive NonUtf8Match where
  | noMatch
  | fault
deriving DecidableEq, Repr

/-- The parameters "the model takes as arguments" (R8). `Config.wf` (WellFormed.lean) gives their constraints. -/
structure Config where
  /-- `P_IBUF_BYTES`: capacity of IBUF in bytes. -/
  pIbufBytes : Nat
  /-- `P_OBUF_BYTES`: capacity of OBUF in bytes. -/
  pObufBytes : Nat
  /-- `P_MAX_CHUNKS`: largest number of chunks CS holds. -/
  pMaxChunks : Nat
  /-- `P_STORE_BYTES`: largest total of payload bytes over all chunks in CS. -/
  pStoreBytes : Nat
  /-- `P_VALID_ALPHA`: whether CT_IS_VALID also requires four ASCII letters (R111). -/
  pValidAlpha : Bool
  /-- `P_NONUTF8_MATCH` (R172). -/
  pNonUtf8Match : NonUtf8Match
  /-- `P_BASE`: platform address of the host register space (R61). -/
  pBase : Nat
deriving DecidableEq, Repr

/-- The byte an unwritten IBUF cell reads as (R56: "a free draw (any byte)"), for the draw number and the cell.
Log entry 5. -/
opaque Config.freeIbufByte : (draw cell : Nat) → Byte

/-- The byte an unwritten OBUF cell reads as for the host (R56), for the draw number and the cell. Log entry 5. -/
opaque Config.freeObufByte : (draw cell : Nat) → Byte

/-- What CRCR holds between commands (R50, I13: "any value"), for the draw number. Log entry 4. -/
opaque Config.freeCrcr : (draw : Nat) → Word

/-- A number a line of the host's program uses where R86 states none, for the number of the line read and the place in the line.
Log entry 12. -/
opaque Config.freeHostNum : (draw place : Nat) → Int

/-- The bytes such a line uses where R86 states none. Log entry 12. -/
opaque Config.freeHostBytes : (draw place : Nat) → List Byte

/-- A choice such a line makes where R86 states none. Log entry 12. -/
opaque Config.freeHostChoice : (draw place : Nat) → Bool

end Sys2Proof
end

