-- ==== Sys2Proof/Syntax.lean ====
section
/-! DEFINITION. The commands of the block (R82): one constructor per row of the opcode table. No command has an operand field
(R80), so no constructor has an argument. -/

namespace Sys2Proof

/-- The 22 commands of R82. -/
inductive Instr where
  | srst
  | ctFromBytes
  | ctFromString
  | ctBytes
  | ctIsCritical
  | ctIsPublic
  | ctIsReservedBitValid
  | ctIsSafeToCopy
  | ctIsValid
  | crcCompute
  | chunkNew
  | chunkParse
  | chunkAsBytes
  | chunkLength
  | chunkType
  | chunkCrc
  | chunkData
  | pngParse
  | pngAppend
  | pngRemove
  | pngChunkByType
  | pngAsBytes
deriving DecidableEq, Repr

end Sys2Proof
end

