-- ==== Sys2Proof/WellFormed.lean ====
section
/-! DEFINITION. What the spec asks of the data the model takes as given: the parameters (R8) and the form of a command word (R80).
A command itself has no operand, so every `Instr` is well formed. -/

namespace Sys2Proof

/-- `P_IBUF_BYTES` and `P_OBUF_BYTES` lie in 12 .. 2^32 - 1 (R8). -/
def Config.bufferSizeWf (n : Nat) : Bool := decide (12 ≤ n) && decide (n ≤ 2 ^ 32 - 1)

/-- `P_MAX_CHUNKS` lies in 1 .. 2^32 - 1 (R8). -/
def Config.chunkCountWf (n : Nat) : Bool := decide (1 ≤ n) && decide (n ≤ 2 ^ 32 - 1)

/-- The constraints of R8 on the OPEN parameters (`P_STORE_BYTES` ≥ 0 and `P_BASE` are unconstrained natural numbers). -/
def Config.wf (c : Config) : Bool :=
  Config.bufferSizeWf c.pIbufBytes && Config.bufferSizeWf c.pObufBytes && Config.chunkCountWf c.pMaxChunks

/-- The field `zero` of format F0: bits [31:8] of a legal command word are zero (R80). -/
def zeroFieldWf (w : Word) : Bool := decide (w.extractLsb' 8 24 = 0)

/-- R80: "No command carries a register field, an immediate or a mode field": there is nothing to check on a command. -/
def Instr.wf (_ : Instr) : Bool := true

end Sys2Proof
end

