-- ==== Sys2Proof/Decode.lean ====
section
/-! DEFINITION. The decoder of R81 over the opcode map of R82, total on every 32-bit word, and the encoder written from the `word`
column of the same table. -/

namespace Sys2Proof

/-- Why a word is illegal (R83). Both reasons raise IllegalCommand. -/
inductive Illegal where
  /-- some bit of [31:8] is 1 -/
  | zeroFieldNonzero
  /-- bits [31:8] are zero and the opcode is no row of R82 -/
  | opcodeUnassigned
deriving DecidableEq, Repr

/-- What a command word decodes to. -/
inductive Decoded where
  | command (i : Instr)
  | illegal (why : Illegal)
deriving DecidableEq, Repr

/-- The opcode column of R82: control and chunk type groups (high nibbles 0x0 and 0x1). -/
def opcodesControlAndType : List (Byte × Instr) :=
  [(0x01, .srst), (0x10, .ctFromBytes), (0x11, .ctFromString), (0x12, .ctBytes), (0x13, .ctIsCritical), (0x14, .ctIsPublic),
   (0x15, .ctIsReservedBitValid), (0x16, .ctIsSafeToCopy), (0x17, .ctIsValid)]

/-- The opcode column of R82: CRC, chunk and container groups (high nibbles 0x2, 0x3 and 0x4). -/
def opcodesDataAndStream : List (Byte × Instr) :=
  [(0x20, .crcCompute), (0x30, .chunkNew), (0x31, .chunkParse), (0x32, .chunkAsBytes), (0x33, .chunkLength), (0x34, .chunkType),
   (0x35, .chunkCrc), (0x36, .chunkData), (0x40, .pngParse), (0x41, .pngAppend), (0x42, .pngRemove), (0x43, .pngChunkByType),
   (0x44, .pngAsBytes)]

/-- The opcode map of R82. -/
def opcodeMap : List (Byte × Instr) := opcodesControlAndType ++ opcodesDataAndStream

/-- The row of an opcode, if there is one. -/
def rowOf (op : Byte) : List (Byte × Instr) → Option Instr
  | [] => none
  | (o, i) :: rest => if op = o then some i else rowOf op rest

/-- `decode(w)` of R81. -/
def decode (w : Word) : Decoded :=
  if zeroFieldWf w then
    match rowOf (w.extractLsb' 0 8) opcodeMap with
    | some i => .command i
    | none => .illegal .opcodeUnassigned
  else .illegal .zeroFieldNonzero

/-- The `word` column of R82. -/
def encode : Instr → Word
  | .srst => 0x00000001
  | .ctFromBytes => 0x00000010
  | .ctFromString => 0x00000011
  | .ctBytes => 0x00000012
  | .ctIsCritical => 0x00000013
  | .ctIsPublic => 0x00000014
  | .ctIsReservedBitValid => 0x00000015
  | .ctIsSafeToCopy => 0x00000016
  | .ctIsValid => 0x00000017
  | .crcCompute => 0x00000020
  | .chunkNew => 0x00000030
  | .chunkParse => 0x00000031
  | .chunkAsBytes => 0x00000032
  | .chunkLength => 0x00000033
  | .chunkType => 0x00000034
  | .chunkCrc => 0x00000035
  | .chunkData => 0x00000036
  | .pngParse => 0x00000040
  | .pngAppend => 0x00000041
  | .pngRemove => 0x00000042
  | .pngChunkByType => 0x00000043
  | .pngAsBytes => 0x00000044

/-- The command word whose bits, numbered as the opcode table numbers them, are the low `nbits` bits of `w` (R80: one 32-bit word). -/
def tableWord (nbits w : Nat) : Word := BitVec.ofNat 32 (w % 2 ^ nbits)

/-- The command the decoder reads from a word given as the opcode table numbers its bits. -/
def decodeTableWord (nbits w : Nat) : Option Instr :=
  match decode (tableWord nbits w) with
  | .command i => some i
  | .illegal _ => none

end Sys2Proof
end

