-- ==== Sys2Proof/Machine/HostProgram.lean ====
section
/-! DEFINITION. The host agent's data (R7): its accesses (R68), its program lines (R86, R87) and its own state. -/

namespace Sys2Proof.Machine

/-- The three host-addressable spaces of R60. -/
inductive Space where
  | reg
  | ibuf
  | obuf
deriving DecidableEq, Repr

/-- One host access as the platform sees it: the space, the address (a platform address for REG, which starts at P_BASE; an offset
for IBUF and OBUF, R61) and the width in bits. R68 says which are inside the contract. -/
structure Access where
  space : Space
  addr : Nat
  bits : Nat
deriving DecidableEq, Repr

/-- The eight host registers of R31. -/
inductive HostReg where
  | cmd
  | status
  | arg
  | res
  | ilen
  | olen
  | eaddr
  | ccount
deriving DecidableEq, Repr

/-- A host variable, by number; number 0 is the variable `s` that `poll` and `check` write (R86, R87). -/
abbrev HostVar := Nat

/-- A label of a host program, by number. -/
abbrev HostLabel := Nat

/-- What a host variable holds: an integer or a byte sequence (R86: "a host variable holding bytes"). -/
inductive HostVal where
  | num (n : Int)
  | bytes (l : List (BitVec 8))
deriving DecidableEq, Repr

/-- The operands and expressions of R86: "integer arithmetic on host variables and literals", bit slices `x[hi:lo]` of variables, and
byte lists (a string literal is one, R87). DESIGN CHOICE (log entry 18): R86 does not list the operators; here they are `+`, `-`, `*`,
quotient and remainder, and a variable alone may stand for bytes as well as for a number. -/
inductive HostTerm where
  | lit (n : Int)
  | bytes (l : List (BitVec 8))
  | var (x : HostVar)
  | slice (x : HostVar) (hi lo : Nat)
  | add (a b : HostTerm)
  | sub (a b : HostTerm)
  | mul (a b : HostTerm)
  | quot (a b : HostTerm)
  | rem (a b : HostTerm)
deriving DecidableEq, Repr

/-- One line of a host program (R86), the pseudo-instructions of R87 among them; the last two are accesses of any shape, so that a
program can also ask for an access outside the contract of R68. -/
inductive HostLine where
  /-- `wr REG, v` -/
  | wr (r : HostReg) (v : HostTerm)
  /-- `rd REG -> name` -/
  | rd (r : HostReg) (x : HostVar)
  /-- `wrb IBUF, a, [b0, b1, …]` -/
  | wrb (a bs : HostTerm)
  /-- `rdb OBUF, a, n -> name` -/
  | rdb (a n : HostTerm) (x : HostVar)
  /-- `MNEMONIC`: issue the command and wait for it -/
  | command (i : Instr)
  /-- `poll` -/
  | poll
  /-- `name = expr` -/
  | set (x : HostVar) (e : HostTerm)
  /-- `b label` -/
  | b (l : HostLabel)
  /-- `beq x, y, label` -/
  | beq (x y : HostTerm) (l : HostLabel)
  /-- `bne x, y, label` -/
  | bne (x y : HostTerm) (l : HostLabel)
  /-- `label:` -/
  | label (l : HostLabel)
  /-- `load bytes` (R87) -/
  | load (bs : HostTerm)
  /-- `settype "abcd"` (R87) -/
  | settype (bs : HostTerm)
  /-- `settype_raw w` (R87) -/
  | settypeRaw (w : HostTerm)
  /-- `check` (R87) -/
  | check
  /-- a read access of any shape, its value into `x` -/
  | rawRead (a : Access) (x : HostVar)
  /-- a write access of any shape -/
  | rawWrite (a : Access) (v : HostTerm)
deriving DecidableEq, Repr

/-- One host move: what is left of a line after its operands are evaluated, one access each ("one byte write per byte, in order"). -/
inductive HostMove where
  /-- write the value -/
  | write (a : Access) (v : BitVec 32)
  /-- read into a variable as a number -/
  | read (a : Access) (x : HostVar)
  /-- read one byte and append it to the bytes of a variable -/
  | readByte (a : Access) (x : HostVar)
  /-- read STATUS into `s`; again unless s[16] = 0 -/
  | poll
  /-- the test of `check` on `s`: stop with failure unless s[3:0] = 0 (no access) -/
  | test
deriving DecidableEq, Repr

/-- The state of the host agent. -/
structure HostAgent where
  /-- its program -/
  prog : List HostLine
  /-- the index of the next line -/
  line : Nat
  /-- the moves left of the line it is on, in order -/
  todo : List HostMove
  /-- its variables, numbers strictly rising -/
  vars : List (HostVar × HostVal)
  /-- how many lines it has read: the number of its current free draw (log entry 12) -/
  reads : Nat
  /-- a `check` failed: the program has stopped with failure (R87) -/
  failed : Bool
deriving DecidableEq, Repr

/-- Who takes the next step of the system: the host, the block (R7), or the platform with a power-on reset (R230). -/
inductive Turn where
  | host
  | block
  | powerOn
deriving DecidableEq, Repr

end Sys2Proof.Machine
end

