-- ==== Sys2Proof/Machine/Parameters.lean ====
section
/-! DEFINITION. The parameter values State.reset carries. R8 leaves them OPEN; statements quantify over them (log entry 1). -/

namespace Sys2Proof.Machine

/-- DESIGN CHOICE (log entry 1): the parameters 95_test_vectors.md uses "unless a vector says otherwise", and P_BASE = 0. -/
def resetConfig : Config where
  pIbufBytes := 256
  pObufBytes := 256
  pMaxChunks := 8
  pStoreBytes := 1024
  pValidAlpha := false
  pNonUtf8Match := .noMatch
  pBase := 0

end Sys2Proof.Machine
end

