-- ==== Sys2Proof/Machine/State.lean ====
section
/-! DEFINITION. The machine's state: the record of R30, CRCR (R50), and the model's own fields (the parameters, the draw counter, the
host agent and the schedule); its value after power-on reset (R55); the error kinds (R200) and the reasons a step can stop. -/

namespace Sys2Proof.Machine

/-- Four bytes in stream order (index 0 first): a chunk type, or the bytes of a big-endian word (R11, R12). -/
structure Quad where
  b0 : Byte
  b1 : Byte
  b2 : Byte
  b3 : Byte
deriving DecidableEq, Repr

/-- A chunk record (R48). -/
structure Chunk where
  type : Quad
  data : List Byte
  length : Word
  crc : Word
deriving DecidableEq, Repr

/-- The cells of IBUF or OBUF that have been written, by offset (R62, R63). A cell that is not listed is *unwritten* (R55): its value is
a free draw (R56), so no listed value equals what an unlisted cell reads as, and the canonical form is `Memory.wf`. -/
abbrev Memory := List Host.Cell

/-- The canonical form: offsets strictly rising. -/
abbrev Memory.wf (m : Memory) : Prop := m.Pairwise fun x y => x.1 < y.1

/-- The error kinds of R200, in the order of their codes 1 to 11. -/
inductive ErrKind where
  | invalidFormat
  | checksumMismatch
  | truncated
  | invalidSignature
  | chunkNotFound
  | illegalCommand
  | noType
  | noChunk
  | noContainer
  | capacityExceeded
  | typeNotText
deriving DecidableEq, Repr

/-- The state. The fields `pending` to `obuf` are the record of R30. -/
structure State where
  /-- an accepted command word not yet performed (R32); STATUS.BUSY -/
  pending : Option Word
  /-- STATUS.ERR (R34) -/
  err : BitVec 4
  /-- STATUS.TRV (R35) -/
  trv : Bool
  /-- STATUS.CRV (R36) -/
  crv : Bool
  /-- STATUS.CSV (R37) -/
  csv : Bool
  /-- STATUS.ESTICKY (R38) -/
  esticky : Bool
  /-- ARG (R40) -/
  arg : Word
  /-- RES (R41) -/
  res : Word
  /-- ILEN (R42) -/
  ilen : Word
  /-- OLEN (R43) -/
  olen : Word
  /-- EADDR (R44) -/
  eaddr : Word
  /-- TR (R47) -/
  tr : Quad
  /-- CR (R48) -/
  cr : Chunk
  /-- CS (R49) -/
  cs : List Chunk
  /-- IBUF (R62) -/
  ibuf : Memory
  /-- OBUF (R63) -/
  obuf : Memory
  /-- CRCR, the CRC generator's hidden register (R50) -/
  crcr : Word
  /-- the MODEL's own: the parameters of R8, which no step writes (log entry 1) -/
  cfg : Config
  /-- the MODEL's own: how many commands have ended, the number of the current free draw (log entry 5) -/
  draws : Nat
  /-- the MODEL's own: the host agent (R7, R86, log entry 7) -/
  host : HostAgent
  /-- the MODEL's own: whose steps come next (R72, log entry 6) -/
  sched : List Turn
deriving DecidableEq, Repr

/-- The block never stops or hangs: an error is a report in STATUS and EADDR, and the block goes on (R203, R209, R210, and N12 of
91_not_in_source.md: "Do not assume: that any command of the block can stop or hang the block"). So no step ends in a fault. -/
inductive Fault : Type
deriving DecidableEq, Repr

/-- Why a step has no meaning. But for `notModelled`, each is a HOST move outside the contract, which the model does not give
(R68, R240: "The model gives the host no such move, which is a refusal"): safe. No command of the block is refused. -/
inductive Refusal where
  /-- raised by an arm of `exec` with no meaning yet; no arm is left so (safe) -/
  | notModelled (mnemonic : String)
  /-- raised by a host write to CMD, ARG, ILEN or an IBUF cell while BUSY = 1 (R240, I14): safe -/
  | hostWriteWhileBusy
  /-- raised by a host access of another width than its space's (R68, I16): safe -/
  | hostWrongWidth
  /-- raised by a host REG access at an offset that is no multiple of 4 (R68, I16): safe -/
  | hostMisaligned
  /-- raised by a host access outside its space (R68, I16): safe -/
  | hostOutOfRange
  /-- raised by a host write to OBUF (R68, I16): safe -/
  | hostObufWrite
deriving DecidableEq, Repr

/-- What a step answers. -/
abbrev Outcome := Host.Outcome State Fault Refusal

/-- A host with no program (log entry 7). -/
def HostAgent.empty : HostAgent where
  prog := []
  line := 0
  todo := []
  vars := []
  reads := 0
  failed := false

/-- The power-on values of R55 for the parameters `cfg`. TR, CR and CRCR are unspecified there and unreadable: DESIGN CHOICE, zeros
(log entries 2 and 3). -/
def State.powerOn (cfg : Config) : State where
  pending := none
  err := 0
  trv := false
  crv := false
  csv := false
  esticky := false
  arg := 0
  res := 0
  ilen := 0
  olen := 0
  eaddr := 0
  tr := ⟨0, 0, 0, 0⟩
  cr := { type := ⟨0, 0, 0, 0⟩, data := [], length := 0, crc := 0 }
  cs := []
  ibuf := []
  obuf := []
  crcr := 0
  cfg := cfg
  draws := 0
  host := .empty
  sched := []

/-- The machine right after power-on reset (R55, R230), with the parameters of log entry 1. -/
def State.reset : State := State.powerOn resetConfig

end Sys2Proof.Machine
end

