-- ==== Sys2Proof/Machine/Bytes.lean ====
section
/-! DEFINITION. Byte sequences, the big-endian readings of R12 and the letters of R15. -/

namespace Sys2Proof.Machine

/-- The four bytes in stream order (R11). -/
def Quad.bytes (q : Quad) : List Byte := [q.b0, q.b1, q.b2, q.b3]

/-- `s[i..j)` of R11, "used only when 0 ≤ i ≤ j ≤ |s|". -/
def slice (s : List Byte) (i j : Nat) : List Byte := (s.drop i).take (j - i)

/-- `s[i..i+4)` as four bytes; used only when i + 4 ≤ |s|. -/
def quadAt (s : List Byte) (i : Nat) : Quad :=
  match s.drop i with
  | a :: b :: c :: d :: _ => ⟨a, b, c, d⟩
  | _ => ⟨0, 0, 0, 0⟩

/-- `be32(s)` of R12: the big-endian reading. -/
def be32 (q : Quad) : Word := q.b0 ++ q.b1 ++ q.b2 ++ q.b3

/-- `u32be(v)` of R12: the big-endian 4-byte encoding. -/
def u32be (v : Word) : Quad where
  b0 := v.extractLsb' 24 8
  b1 := v.extractLsb' 16 8
  b2 := v.extractLsb' 8 8
  b3 := v.extractLsb' 0 8

/-- `isUpperAlpha(b)` of R15. -/
def isUpperAlpha (b : Byte) : Bool := decide (0x41 ≤ b) && decide (b ≤ 0x5A)

/-- `isAlpha(b)` of R15: an ASCII letter. -/
def isAlpha (b : Byte) : Bool := isUpperAlpha b || (decide (0x61 ≤ b) && decide (b ≤ 0x7A))

/-- `bit5(b)` of R15: the case bit 0x20. -/
def bit5 (b : Byte) : Bool := b.getLsbD 5

/-- Four ASCII letters (R102, R111). -/
def Quad.allAlpha (q : Quad) : Bool := isAlpha q.b0 && isAlpha q.b1 && isAlpha q.b2 && isAlpha q.b3

/-- `zext_32` of a Boolean (R10). -/
def zext32 (b : Bool) : Word := if b then 1 else 0

end Sys2Proof.Machine
end

