-- ==== Sys2Proof/Machine/CrcUnit.lean ====
section
/-! DEFINITION. The CRC-32/ISO-HDLC generator: the byte-serial unit of R122 over its 32-bit register, and `crc32` (R120, R121). -/

namespace Sys2Proof.Machine

/-- The reflected generator polynomial (R120). -/
def crcPoly : Word := 0xEDB88320

/-- One of the 8 repetitions in the loop body of R121. -/
def crcShift (r : Word) : Word := if r.getLsbD 0 then (r >>> 1) ^^^ crcPoly else r >>> 1

/-- `n` repetitions. -/
def crcShifts : (n : Nat) → Word → Word
  | 0, r => r
  | n + 1, r => crcShifts n (crcShift r)

/-- `init` of R122. -/
def crcInit : Word := 0xFFFFFFFF

/-- `update(b)` of R122: the loop body of R121 for one byte. -/
def crcUpdate (r : Word) (b : Byte) : Word := crcShifts 8 (r ^^^ b.setWidth 32)

/-- `update` on each byte of a sequence, in sequence order (R122). -/
def crcUpdates (r : Word) (s : List Byte) : Word := s.foldl crcUpdate r

/-- `final` of R122. -/
def crcFinal (r : Word) : Word := r ^^^ 0xFFFFFFFF

/-- `crc32(s)` of R121. -/
def crc32 (s : List Byte) : Word := crcFinal (crcUpdates crcInit s)

end Sys2Proof.Machine
end

