-- ==== Sys2Proof/Machine/Framing.lean ====
section
/-! DEFINITION. The pure functions of a single chunk: the property functions of a type (R104, R111), `frame` (R141) and `parseChunk` (R143). -/

namespace Sys2Proof.Machine

/-- `critical(t)` of R104. -/
def critical (t : Quad) : Bool := !bit5 t.b0

/-- `public(t)` of R104. -/
def isPublic (t : Quad) : Bool := !bit5 t.b1

/-- `reservedBitValid(t)` of R104. -/
def reservedBitValid (t : Quad) : Bool := !bit5 t.b2

/-- `safeToCopy(t)` of R104. -/
def safeToCopy (t : Quad) : Bool := bit5 t.b3

/-- `valid(t)` of R111, under P_VALID_ALPHA. -/
def valid (cfg : Config) (t : Quad) : Bool := reservedBitValid t && (!cfg.pValidAlpha || t.allAlpha)

/-- The checksum of a chunk (R124): over type ++ data, neither the length field nor the checksum field. -/
def chunkCrc (t : Quad) (d : List Byte) : Word := crc32 (t.bytes ++ d)

/-- The record CHUNK_NEW builds from a type and a payload whose size fits in 32 bits (R142, R150). -/
def mkChunk (t : Quad) (d : List Byte) : Chunk where
  type := t
  data := d
  length := BitVec.ofNat 32 d.length
  crc := chunkCrc t d

/-- `frame(c)` of R141. -/
def frame (c : Chunk) : List Byte := (u32be c.length).bytes ++ c.type.bytes ++ c.data ++ (u32be c.crc).bytes

/-- What `parseChunk` returns (R143): a chunk and the number of bytes consumed, or an error kind. -/
inductive ChunkResult where
  | ok (c : Chunk) (k : Nat)
  | truncated
  | checksumMismatch
deriving DecidableEq, Repr

/-- `parseChunk(s)` of R143. The sums are over natural numbers and never wrap (R13). -/
def parseChunk (s : List Byte) : ChunkResult :=
  if s.length < 12 then .truncated
  else
    let lengthField := be32 (quadAt s 0)
    let l := lengthField.toNat
    if 12 + l > s.length then .truncated
    else
      let t := quadAt s 4
      let d := slice s 8 (8 + l)
      let c := be32 (quadAt s (8 + l))
      if chunkCrc t d ≠ c then .checksumMismatch
      else .ok { type := t, data := d, length := lengthField, crc := c } (12 + l)

end Sys2Proof.Machine
end

