-- ==== Sys2Proof/Machine/Stream.lean ====
section
/-! DEFINITION. The pure functions of a container: the signature (R9), `containerBytes` (R173), the loop of PNG_PARSE (R174), and the
by-type search with `keyMatch`, `utf8` and `findFirst` (R171, R172). -/

namespace Sys2Proof.Machine

/-- `SIG` of R9. -/
def signature : List Byte := [0x89, 0x50, 0x4E, 0x47, 0x0D, 0x0A, 0x1A, 0x0A]

/-- `Σ_i |cs[i].data|`: the payload bytes a container holds (R49, R206). -/
def storedBytes (cs : List Chunk) : Nat := (cs.map fun c => c.data.length).sum

/-- `containerBytes(cs)` of R173. -/
def containerBytes (cs : List Chunk) : List Byte := signature ++ (cs.map frame).flatten

/-- What the loop of PNG_PARSE returns: the chunks, or the error it raises and the offset it raises it with (R174). -/
inductive StreamResult where
  | ok (cs : List Chunk)
  | error (e : ErrKind) (off : Nat)
deriving DecidableEq, Repr

/-- The loop of R174 from offset `off` of a stream of which `rest` is left, with `acc` and `total` gathered so far. Every turn consumes at
least 12 bytes, so `fuel ≥ |rest|` turns are enough and the fuel never runs out (Laws/Stream.lean). -/
def parseLoop (cfg : Config) : (fuel : Nat) → (rest : List Byte) → (off : Nat) → (acc : List Chunk) → (total : Nat) → StreamResult
  | _, [], _, acc, _ => .ok acc
  | 0, _ :: _, off, _, _ => .error .truncated off
  | fuel + 1, b :: bs, off, acc, total =>
    match parseChunk (b :: bs) with
    | .truncated => .error .truncated off
    | .checksumMismatch => .error .checksumMismatch off
    | .ok c k =>
      if acc.length + 1 > cfg.pMaxChunks ∨ total + c.length.toNat > cfg.pStoreBytes then .error .capacityExceeded off
      else parseLoop cfg fuel ((b :: bs).drop k) (off + k) (acc ++ [c]) (total + c.length.toNat)

/-- The body of PNG_PARSE after the input is read (R174): the signature "before any chunk parse", then the chunks in stream order. -/
def parseStream (cfg : Config) (s : List Byte) : StreamResult :=
  if s.length < 8 ∨ slice s 0 8 ≠ signature then .error .invalidSignature 0
  else parseLoop cfg s.length (s.drop 8) 8 [] 0

/-- `keyMatch(key, t)` of R171. -/
def keyMatch (key : List Byte) (t : Quad) : Bool := decide (key = t.bytes)

/-- The well-formed byte sequences of R172, one row per line of its table, one range per byte. -/
def utf8Forms : List (List (Byte × Byte)) :=
  [[(0x00, 0x7F)],
   [(0xC2, 0xDF), (0x80, 0xBF)],
   [(0xE0, 0xE0), (0xA0, 0xBF), (0x80, 0xBF)],
   [(0xE1, 0xEC), (0x80, 0xBF), (0x80, 0xBF)],
   [(0xED, 0xED), (0x80, 0x9F), (0x80, 0xBF)],
   [(0xEE, 0xEF), (0x80, 0xBF), (0x80, 0xBF)],
   [(0xF0, 0xF0), (0x90, 0xBF), (0x80, 0xBF), (0x80, 0xBF)],
   [(0xF1, 0xF3), (0x80, 0xBF), (0x80, 0xBF), (0x80, 0xBF)],
   [(0xF4, 0xF4), (0x80, 0x8F), (0x80, 0xBF), (0x80, 0xBF)]]

/-- The bytes left when the first bytes of `s` lie in the ranges of `form`; none when they do not. -/
def dropForm : (form : List (Byte × Byte)) → (s : List Byte) → Option (List Byte)
  | [], s => some s
  | _ :: _, [] => none
  | (lo, hi) :: form, b :: s => if lo ≤ b ∧ b ≤ hi then dropForm form s else none

/-- `s` splits, from the start, into at most `n` well-formed pieces (R172). -/
def splitsUtf8 : (n : Nat) → (s : List Byte) → Bool
  | _, [] => true
  | 0, _ :: _ => false
  | n + 1, b :: s =>
    utf8Forms.any fun form =>
      match dropForm form (b :: s) with
      | some rest => splitsUtf8 n rest
      | none => false

/-- `utf8(t)` of R172: four bytes are at most four pieces. -/
def utf8 (t : Quad) : Bool := splitsUtf8 4 t.bytes

/-- What `findFirst` returns (R172). -/
inductive SearchResult where
  | found (i : Nat) (c : Chunk)
  | none
  | typeNotText (i : Nat)
deriving DecidableEq, Repr

/-- The loop of `findFirst` from index `i` on. -/
def findFrom (mode : NonUtf8Match) (key : List Byte) : (i : Nat) → (cs : List Chunk) → SearchResult
  | _, [] => .none
  | i, c :: cs =>
    if utf8 c.type then
      if keyMatch key c.type then .found i c else findFrom mode key (i + 1) cs
    else
      match mode with
      | .fault => .typeNotText i
      | .noMatch => findFrom mode key (i + 1) cs

/-- `findFirst(cs, key)` of R172, under P_NONUTF8_MATCH; `found` also carries the entry `cs[i]`. -/
def findFirst (cfg : Config) (cs : List Chunk) (key : List Byte) : SearchResult := findFrom cfg.pNonUtf8Match key 0 cs

end Sys2Proof.Machine
end

