-- ==== Sys2Proof/Machine/Flags.lean ====
section
/-! DEFINITION. The flags: the error codes of R200, the STATUS word of R33, and CCOUNT (R45). -/

namespace Sys2Proof.Machine

/-- The code of an error kind (R200); 0 is OK, 12 to 15 are never written. -/
def ErrKind.code : ErrKind → BitVec 4
  | .invalidFormat => 1
  | .checksumMismatch => 2
  | .truncated => 3
  | .invalidSignature => 4
  | .chunkNotFound => 5
  | .illegalCommand => 6
  | .noType => 7
  | .noChunk => 8
  | .noContainer => 9
  | .capacityExceeded => 10
  | .typeNotText => 11

/-- STATUS.BUSY: a command is accepted and not yet performed (R39). -/
def State.busy (s : State) : Bool := s.pending.isSome

/-- A flag at bit `i` of a register. -/
def flagBit (i : Nat) (b : Bool) : Word := if b then 1#32 <<< i else 0

/-- What STATUS reads (R33): ERR [3:0], TRV [8], CRV [9], CSV [10], ESTICKY [15], BUSY [16], every other bit 0. -/
def State.statusWord (s : State) : Word :=
  s.err.setWidth 32 ||| flagBit 8 s.trv ||| flagBit 9 s.crv ||| flagBit 10 s.csv ||| flagBit 15 s.esticky ||| flagBit 16 s.busy

/-- What CCOUNT reads (R45): `|cs|` when CSV = 1 and 0 when CSV = 0. -/
def State.ccount (s : State) : Word := if s.csv then BitVec.ofNat 32 s.cs.length else 0

end Sys2Proof.Machine
end

