-- ==== Sys2Proof/Machine/Ops.lean ====
section
/-! DEFINITION. The named operations every command is made of: the cells of IBUF and OBUF, the two ways a command ends (`raise`, R203,
and `complete`, R204), power-on reset (R230), and the turns of the schedule. This hardware's one form of taking an exception is `raise`;
there is no return from one (R210: "There is no return-from-error command and none is needed"). -/

namespace Sys2Proof.Machine

/-- The byte a cell holds, none when it is unwritten. -/
def Memory.read? : (m : Memory) → (a : Nat) → Option Byte
  | [], _ => none
  | (x, y) :: m, a => if a = x then some y else Memory.read? m a

/-- Write one cell. -/
def Memory.write : (m : Memory) → (a : Nat) → (b : Byte) → Memory
  | [], a, b => [(a, b)]
  | (x, y) :: m, a, b =>
    if a < x then (a, b) :: (x, y) :: m
    else if a = x then (a, b) :: m
    else (x, y) :: Memory.write m a b

/-- `MemWrite(OBUF, a, n, s)` of R14, n being the length of s: the bytes of s from offset a on. -/
def Memory.writeBytes : (m : Memory) → (a : Nat) → (s : List Byte) → Memory
  | m, _, [] => m
  | m, a, b :: s => Memory.writeBytes (Memory.write m a b) (a + 1) s

/-- What every end of a command does, whichever it is: BUSY ← 0 (R203, R204). The draw number advances, so that unwritten cells are
drawn anew for the next command (R56), and CRCR holds any value until a command starts it again (R50, I13). Log entries 4 and 5. -/
def State.ended (s : State) : State :=
  { s with pending := none, draws := s.draws + 1, crcr := Config.freeCrcr s.draws }

/-- `complete` of R204: ERR ← 0 and BUSY ← 0; ESTICKY and EADDR stay. `s` carries the command's own writes. -/
def complete (s : State) : State := { s.ended with err := 0 }

/-- `raise E(info)` of R203: ERR, ESTICKY, EADDR and BUSY, and nothing else. -/
def raise (e : ErrKind) (info : Word) (s : State) : State :=
  { s.ended with err := e.code, esticky := true, eaddr := info }

/-- A power-on reset during a run (R230): the state of R55, a pending command discarded without effect. The parameters, the host agent and
the schedule are not the block's and stay. -/
def State.powerOnReset (s : State) : State :=
  { State.powerOn s.cfg with draws := s.draws + 1, host := s.host, sched := s.sched }

/-- Who moves next (log entry 6): the head of the schedule; past its end the block while a command is pending, else the host. -/
def State.turn (s : State) : Turn :=
  match s.sched with
  | t :: _ => t
  | [] => if s.busy then .block else .host

/-- The schedule moves on. -/
def State.endTurn (s : State) : State := { s with sched := s.sched.tail }

end Sys2Proof.Machine
end

