-- ==== Sys2Proof/Machine/Operands.lean ====
section
/-! DEFINITION. The operand forms of R85, each with the prerequisite it is read under (R202: valid bits first, then input capacity), and
the output form of the three commands that write OBUF (R63). -/

namespace Sys2Proof.Machine

/-- A byte of IBUF as a command reads it: the byte written there, or a free draw (R56). -/
def State.ibufByte (s : State) (a : Nat) : Byte := (s.ibuf.read? a).getD (Config.freeIbufByte s.draws a)

/-- A byte of OBUF as the host reads it: the byte written there, or a free draw (R56). -/
def State.obufByte (s : State) (a : Nat) : Byte := (s.obuf.read? a).getD (Config.freeObufByte s.draws a)

/-- `MemRead(IBUF, a, n)` of R14. -/
def State.memRead (s : State) (a n : Nat) : List Byte := (List.range n).map fun k => s.ibufByte (a + k)

/-- The byte-sequence operand `MemRead(IBUF, 0, ILEN)` (R85). -/
def State.input (s : State) : List Byte := s.memRead 0 s.ilen.toNat

/-- The type operand `u32be(ARG)` of CT_FROM_BYTES (R85, R40). -/
def State.argType (s : State) : Quad := u32be s.arg

/-- A command that reads TR: NoType while TRV = 0 (R35, R207). -/
def needType (s : State) (k : Quad → State) : State := if s.trv then k s.tr else raise .noType 0 s

/-- A command that reads CR: NoChunk while CRV = 0 (R36, R207). -/
def needChunk (s : State) (k : Chunk → State) : State := if s.crv then k s.cr else raise .noChunk 0 s

/-- A command that reads CS: NoContainer while CSV = 0 (R37, R207). -/
def needContainer (s : State) (k : List Chunk → State) : State := if s.csv then k s.cs else raise .noContainer 0 s

/-- A command that reads IBUF: CapacityExceeded when ILEN > P_IBUF_BYTES (R42, R206 (a)). -/
def needInput (s : State) (k : List Byte → State) : State :=
  if s.ilen.toNat > s.cfg.pIbufBytes then raise .capacityExceeded 0 s else k s.input

/-- An output of the `n` bytes `b`: CapacityExceeded when n > P_OBUF_BYTES (R206 (b)), else `MemWrite(OBUF, 0, n, b)` and OLEN ← n (R63). -/
def deliver (s : State) (n : Nat) (b : List Byte) : State :=
  if n > s.cfg.pObufBytes then raise .capacityExceeded 0 s
  else complete { s with obuf := s.obuf.writeBytes 0 b, olen := BitVec.ofNat 32 n }

end Sys2Proof.Machine
end

