-- ==== Sys2Proof/Machine/HostOps.lean ====
section
/-! DEFINITION. The host's accesses to the three spaces (R60 to R63): which are inside the contract (R68, R240) and what each does (R31). -/

namespace Sys2Proof.Machine

/-- The byte offset of a host register from P_BASE (R31). -/
def HostReg.offset : HostReg → Nat
  | .cmd => 0x00
  | .status => 0x04
  | .arg => 0x08
  | .res => 0x0C
  | .ilen => 0x10
  | .olen => 0x14
  | .eaddr => 0x18
  | .ccount => 0x1C

/-- The register at an offset of the REG space; none at a reserved offset (R46). -/
def regAt (off : Nat) : Option HostReg :=
  [HostReg.cmd, .status, .arg, .res, .ilen, .olen, .eaddr, .ccount].find? fun r => r.offset == off

/-- The size of the REG space in bytes (R60, R61). -/
def regSpaceBytes : Nat := 0x100

/-- Where the platform places a host register (R61). -/
def regAccess (cfg : Config) (r : HostReg) : Access where
  space := .reg
  addr := cfg.pBase + r.offset
  bits := 32

/-- The byte access at an offset of IBUF. -/
def ibufAccess (a : Nat) : Access where
  space := .ibuf
  addr := a
  bits := 8

/-- The byte access at an offset of OBUF. -/
def obufAccess (a : Nat) : Access where
  space := .obuf
  addr := a
  bits := 8

/-- Why an access is outside the contract of R68, if it is. -/
def accessRefusal (cfg : Config) (a : Access) (isWrite : Bool) : Option Refusal :=
  match a.space with
  | .reg =>
    if a.bits ≠ 32 then some .hostWrongWidth
    else if a.addr < cfg.pBase ∨ cfg.pBase + regSpaceBytes ≤ a.addr then some .hostOutOfRange
    else if (a.addr - cfg.pBase) % 4 ≠ 0 then some .hostMisaligned
    else none
  | .ibuf =>
    if a.bits ≠ 8 then some .hostWrongWidth
    else if cfg.pIbufBytes ≤ a.addr then some .hostOutOfRange
    else none
  | .obuf =>
    if isWrite then some .hostObufWrite
    else if a.bits ≠ 8 then some .hostWrongWidth
    else if cfg.pObufBytes ≤ a.addr then some .hostOutOfRange
    else none

/-- What a host register reads (R31): CMD, which is write-only, reads 0. -/
def State.readReg (s : State) : HostReg → Word
  | .cmd => 0
  | .status => s.statusWord
  | .arg => s.arg
  | .res => s.res
  | .ilen => s.ilen
  | .olen => s.olen
  | .eaddr => s.eaddr
  | .ccount => s.ccount

/-- What an offset of the REG space reads: a reserved one reads 0 (R46). -/
def State.readOffset (s : State) (off : Nat) : Word :=
  match regAt off with
  | some r => s.readReg r
  | none => 0

/-- A host write of `v` to a register: CMD accepts a command (R32), ARG and ILEN hold `v` (R40, R42), a write to a read-only register is
ignored (R31). While BUSY = 1 there is no write to CMD, ARG or ILEN (R240). -/
def State.writeReg (s : State) (r : HostReg) (v : Word) : Except Refusal State :=
  match r with
  | .cmd => if s.busy then .error .hostWriteWhileBusy else .ok { s with pending := some v }
  | .arg => if s.busy then .error .hostWriteWhileBusy else .ok { s with arg := v }
  | .ilen => if s.busy then .error .hostWriteWhileBusy else .ok { s with ilen := v }
  | .status | .res | .olen | .eaddr | .ccount => .ok s

/-- A host write at an offset of the REG space: at a reserved one it is ignored (R46). -/
def State.writeOffset (s : State) (off : Nat) (v : Word) : Except Refusal State :=
  match regAt off with
  | some r => s.writeReg r v
  | none => .ok s

/-- A host write of an IBUF cell (R62); none while BUSY = 1 (R240). -/
def State.writeIbuf (s : State) (a : Nat) (b : Byte) : Except Refusal State :=
  if s.busy then .error .hostWriteWhileBusy else .ok { s with ibuf := s.ibuf.write a b }

/-- What a host read access answers. It changes no state (R69). -/
def hostRead (a : Access) (s : State) : Except Refusal Word :=
  match accessRefusal s.cfg a false with
  | some r => .error r
  | none =>
    match a.space with
    | .reg => .ok (s.readOffset (a.addr - s.cfg.pBase))
    | .ibuf => .ok ((s.ibufByte a.addr).setWidth 32)
    | .obuf => .ok ((s.obufByte a.addr).setWidth 32)

/-- What a host write access does; on a byte space the low 8 bits of `v` are the byte written. -/
def hostWrite (a : Access) (v : Word) (s : State) : Except Refusal State :=
  match accessRefusal s.cfg a true with
  | some r => .error r
  | none =>
    match a.space with
    | .reg => s.writeOffset (a.addr - s.cfg.pBase) v
    | .ibuf => s.writeIbuf a.addr (v.setWidth 8)
    | .obuf => .error .hostObufWrite

end Sys2Proof.Machine
end

