-- ==== Sys2Proof/Machine/HostRun.lean ====
section
/-! DEFINITION. The host agent's steps: a line of its program (R86, R87) is evaluated into moves, and each move is one access. -/

namespace Sys2Proof.Machine

/-- The variable `s` of R86 and R87. -/
def statusVar : HostVar := 0

/-- The value of a host variable. -/
def lookupVar : (vars : List (HostVar × HostVal)) → (x : HostVar) → Option HostVal
  | [], _ => none
  | (y, v) :: vars, x => if x = y then some v else lookupVar vars x

/-- Set a host variable; numbers stay strictly rising. -/
def assignVar : (vars : List (HostVar × HostVal)) → (x : HostVar) → (v : HostVal) → List (HostVar × HostVal)
  | [], x, v => [(x, v)]
  | (y, w) :: vars, x, v =>
    if x < y then (x, v) :: (y, w) :: vars
    else if x = y then (x, v) :: vars
    else (y, w) :: assignVar vars x v

/-- Set a variable of the host agent. -/
def HostAgent.assign (h : HostAgent) (x : HostVar) (v : HostVal) : HostAgent := { h with vars := assignVar h.vars x v }

/-- A value where a number is needed. R86 states none for bytes: a free draw (log entry 12). -/
def HostVal.toInt (draw place : Nat) : HostVal → Int
  | .num n => n
  | .bytes _ => Config.freeHostNum draw place

/-- A value where bytes are needed. R86 states none for a number: a free draw (log entry 12). -/
def HostVal.toBytes (draw place : Nat) : HostVal → List Byte
  | .bytes l => l
  | .num _ => Config.freeHostBytes draw place

/-- A value where a natural number is needed (an offset, a count); a free draw where it is none (log entry 12). -/
def HostVal.toCount (draw place : Nat) : HostVal → Nat
  | .num (.ofNat n) => n
  | _ => (Config.freeHostNum draw place).toNat

/-- A value as the word of a write of `bits` bits; a free draw where it does not fit (log entry 12). -/
def HostVal.toWord (draw place bits : Nat) (v : HostVal) : Word :=
  if 0 ≤ v.toInt draw place ∧ v.toInt draw place < 2 ^ bits then BitVec.ofInt 32 (v.toInt draw place)
  else BitVec.ofInt 32 (Config.freeHostNum draw place)

/-- The value of a variable. One that was never set holds a free draw of either kind (log entry 12). -/
def readVar (vars : List (HostVar × HostVal)) (draw place : Nat) (x : HostVar) : HostVal :=
  match lookupVar vars x with
  | some v => v
  | none =>
    if Config.freeHostChoice draw place then .bytes (Config.freeHostBytes draw place) else .num (Config.freeHostNum draw place)

/-- The bit slice `[hi:lo]` of a value (R10). R10 slices unsigned numbers: of a negative number or of bytes the slice is a free draw of
its width, and with hi < lo, which has no width, a free draw (log entry 12). -/
def sliceVal (free : Int) (hi lo : Nat) (v : HostVal) : Int :=
  if hi < lo then free
  else
    match v with
    | .num (.ofNat n) => (n / 2 ^ lo % 2 ^ (hi + 1 - lo) : Nat)
    | _ => free % 2 ^ (hi + 1 - lo)

/-- Whether quotient and remainder need no rule that R86 does not state: the division is exact, or of natural numbers. -/
def plainDivision (a b : Int) : Bool := decide (b ≠ 0) && (decide (a % b = 0) || (decide (0 ≤ a) && decide (0 ≤ b)))

/-- A division, or the free draw of its place where R86 states no result (log entry 12). -/
def divide (free : Int) (f : Int → Int → Int) (a b : Int) : Int := if plainDivision a b then f a b else free

/-- Arithmetic on the values of two operands. Their places are twice the place of the term and the next, so that each place of a line has
its own draws. -/
def arith (draw place : Nat) (f : Int → Int → Int) (a b : HostVal) : HostVal :=
  .num (f (a.toInt draw (2 * place)) (b.toInt draw (2 * place + 1)))

/-- The value of a term (R86). -/
def evalTerm (vars : List (HostVar × HostVal)) (draw : Nat) : (place : Nat) → HostTerm → HostVal
  | _, .lit n => .num n
  | _, .bytes l => .bytes l
  | p, .var x => readVar vars draw p x
  | p, .slice x hi lo => .num (sliceVal (Config.freeHostNum draw p) hi lo (readVar vars draw p x))
  | p, .add a b => arith draw p (· + ·) (evalTerm vars draw (2 * p) a) (evalTerm vars draw (2 * p + 1) b)
  | p, .sub a b => arith draw p (· - ·) (evalTerm vars draw (2 * p) a) (evalTerm vars draw (2 * p + 1) b)
  | p, .mul a b => arith draw p (· * ·) (evalTerm vars draw (2 * p) a) (evalTerm vars draw (2 * p + 1) b)
  | p, .quot a b =>
    arith draw p (divide (Config.freeHostNum draw p) (· / ·)) (evalTerm vars draw (2 * p) a) (evalTerm vars draw (2 * p + 1) b)
  | p, .rem a b =>
    arith draw p (divide (Config.freeHostNum draw p) (· % ·)) (evalTerm vars draw (2 * p) a) (evalTerm vars draw (2 * p + 1) b)

/-- `x = y` of R86. Whether bytes equal a number is a free draw (log entry 12). -/
def HostVal.equals (draw place : Nat) : HostVal → HostVal → Bool
  | .num a, .num b => decide (a = b)
  | .bytes a, .bytes b => decide (a = b)
  | _, _ => Config.freeHostChoice draw place

/-- The indexes of the lines `l:` stands on, counted from `i`. -/
def labelLines (l : HostLabel) : (i : Nat) → (prog : List HostLine) → List Nat
  | _, [] => []
  | i, .label k :: prog => if k = l then i :: labelLines l (i + 1) prog else labelLines l (i + 1) prog
  | i, _ :: prog => labelLines l (i + 1) prog

/-- `wrb IBUF, a, bytes`: one byte write per byte, in order (R86). -/
def wrbMoves : (a : Nat) → (bs : List Byte) → List HostMove
  | _, [] => []
  | a, b :: bs => .write (ibufAccess a) (b.setWidth 32) :: wrbMoves (a + 1) bs

/-- `rdb OBUF, a, n -> x`: one byte read per byte, in order (R86). -/
def rdbMoves (x : HostVar) : (a n : Nat) → List HostMove
  | _, 0 => []
  | a, n + 1 => .readByte (obufAccess a) x :: rdbMoves x (a + 1) n

/-- `MNEMONIC`: `wr CMD, word` then `poll` (R86, R87). -/
def commandMoves (cfg : Config) (i : Instr) : List HostMove := [.write (regAccess cfg .cmd) (encode i), .poll]

/-- `load bytes`: `wrb IBUF, 0, bytes` ; `wr ILEN, len(bytes)` (R87). -/
def loadMoves (cfg : Config) (draw : Nat) (bs : List Byte) : List HostMove :=
  wrbMoves 0 bs ++ [.write (regAccess cfg .ilen) ((HostVal.num bs.length).toWord draw 1 32)]

/-- The host goes to the next line with moves to make. -/
def HostAgent.moves (h : HostAgent) (ms : List HostMove) : HostAgent := { h with line := h.line + 1, todo := ms }

/-- The host goes to a label: to the line it stands on; to a free draw when it stands on none or on several (log entry 12). -/
def HostAgent.goto (h : HostAgent) (l : HostLabel) : HostAgent :=
  match labelLines l 0 h.prog with
  | [i] => { h with line := i }
  | _ => { h with line := (Config.freeHostNum h.reads 0).toNat }

/-- The value of an operand of the line being read, by its place. -/
def HostAgent.eval (h : HostAgent) (place : Nat) (t : HostTerm) : HostVal := evalTerm h.vars h.reads place t

/-- An operand as bytes. -/
def HostAgent.bytesOf (h : HostAgent) (place : Nat) (t : HostTerm) : List Byte := (h.eval place t).toBytes h.reads place

/-- An operand as an offset or a count. -/
def HostAgent.countOf (h : HostAgent) (place : Nat) (t : HostTerm) : Nat := (h.eval place t).toCount h.reads place

/-- An operand as the word of a write. -/
def HostAgent.wordOf (h : HostAgent) (place bits : Nat) (t : HostTerm) : Word := (h.eval place t).toWord h.reads place bits

/-- The test of `beq` and `bne`. -/
def HostAgent.equal (h : HostAgent) (x y : HostTerm) : Bool := (h.eval 2 x).equals h.reads 1 (h.eval 3 y)

/-- The host reads one line: its operands are evaluated, and what is left are its accesses (R86, R87). -/
def HostAgent.readLine (h : HostAgent) (cfg : Config) : HostLine → HostAgent
  | .wr r v => h.moves [.write (regAccess cfg r) (h.wordOf 1 32 v)]
  | .rd r x => h.moves [.read (regAccess cfg r) x]
  | .wrb a bs => h.moves (wrbMoves (h.countOf 2 a) (h.bytesOf 3 bs))
  | .rdb a n x => (h.assign x (.bytes [])).moves (rdbMoves x (h.countOf 2 a) (h.countOf 3 n))
  | .command i => h.moves (commandMoves cfg i)
  | .poll => h.moves [.poll]
  | .set x e => (h.assign x (h.eval 1 e)).moves []
  | .b l => h.goto l
  | .beq x y l => if h.equal x y then h.goto l else h.moves []
  | .bne x y l => if h.equal x y then h.moves [] else h.goto l
  | .label _ => h.moves []
  | .load bs => h.moves (loadMoves cfg h.reads (h.bytesOf 1 bs))
  | .settype bs => h.moves (loadMoves cfg h.reads (h.bytesOf 1 bs) ++ commandMoves cfg .ctFromString)
  | .settypeRaw w => h.moves (.write (regAccess cfg .arg) (h.wordOf 1 32 w) :: commandMoves cfg .ctFromBytes)
  | .check => h.moves [.read (regAccess cfg .status) statusVar, .test]
  | .rawRead a x => h.moves [.read a x]
  | .rawWrite a v => h.moves [.write a (h.wordOf 1 a.bits v)]

/-- The host has read a line; its next free draws are new ones (log entry 12). -/
def HostAgent.nextDraw (h : HostAgent) : HostAgent := { h with reads := h.reads + 1 }

/-- The outcome of a host access. -/
def ofAccess {α : Type} (r : Except Refusal α) (k : α → Outcome) : Outcome :=
  match r with
  | .ok x => k x
  | .error e => .refused e

/-- One move of the host; the move is already off its list in `s`. -/
def hostMove (s : State) : HostMove → Outcome
  | .write a v => ofAccess (hostWrite a v s) .next
  | .read a x => ofAccess (hostRead a s) fun w => .next { s with host := s.host.assign x (.num w.toNat) }
  | .readByte a x =>
    ofAccess (hostRead a s) fun w => .next { s with host := s.host.assign x (.bytes (s.host.bytesOf 1 (.var x) ++ [w.setWidth 8])) }
  | .poll =>
    ofAccess (hostRead (regAccess s.cfg .status) s) fun w =>
      let h := s.host.assign statusVar (.num w.toNat)
      .next { s with host := if w.getLsbD 16 then { h with todo := .poll :: h.todo } else h }
  | .test => .next { s with host := if s.host.equal (.slice statusVar 3 0) (.lit 0) then s.host else { s.host with failed := true } }

/-- One step of the host: the next move of the line it is on, else the next line; a host that has ended or stopped does nothing. -/
def hostStep (s : State) : Outcome :=
  if s.host.failed then .next s
  else
    match s.host.todo with
    | m :: ms => hostMove { s with host := { s.host with todo := ms } } m
    | [] =>
      match s.host.prog[s.host.line]? with
      | none => .next s
      | some l => .next { s with host := (s.host.readLine s.cfg l).nextDraw }

end Sys2Proof.Machine
end

