-- ==== Sys2Proof/Machine/ChunkOps.lean ====
section
/-! DEFINITION. The chunk family (43_chunk.md). -/

namespace Sys2Proof.Machine

/-- CHUNK_NEW (R142). -/
def execChunkNew (s : State) : Outcome :=
  .next (needType s fun t => needInput s fun d =>
    complete { s with cr := { type := t, data := d, length := s.ilen, crc := chunkCrc t d }, crv := true })

/-- CHUNK_PARSE (R144). -/
def execChunkParse (s : State) : Outcome :=
  .next (needInput s fun b =>
    match parseChunk b with
    | .truncated => raise .truncated 0 s
    | .checksumMismatch => raise .checksumMismatch 0 s
    | .ok c k => complete { s with cr := c, crv := true, res := BitVec.ofNat 32 k })

/-- CHUNK_AS_BYTES (R145). -/
def execChunkAsBytes (s : State) : Outcome := .next (needChunk s fun c => deliver s (frame c).length (frame c))

/-- CHUNK_LENGTH (R146). -/
def execChunkLength (s : State) : Outcome := .next (needChunk s fun c => complete { s with res := c.length })

/-- CHUNK_TYPE (R147). -/
def execChunkType (s : State) : Outcome :=
  .next (needChunk s fun c => complete { s with tr := c.type, trv := true, res := be32 c.type })

/-- CHUNK_CRC (R148). -/
def execChunkCrc (s : State) : Outcome := .next (needChunk s fun c => complete { s with res := c.crc })

/-- CHUNK_DATA (R149): the length it checks and writes is CR.length, which is `|CR.data|` whenever CRV = 1 (R48). -/
def execChunkData (s : State) : Outcome := .next (needChunk s fun c => deliver s c.length.toNat c.data)

end Sys2Proof.Machine
end

