-- ==== Sys2Proof/Machine/ChunkType.lean ====
section
/-! DEFINITION. The chunk type family (41_chunk_type.md). -/

namespace Sys2Proof.Machine

/-- A command that answers a scalar of TR in RES: the shape of R103 and R105 to R109. -/
def typeQuery (f : Quad → Word) (s : State) : State := needType s fun t => complete { s with res := f t }

/-- CT_FROM_BYTES (R101). -/
def execCtFromBytes (s : State) : Outcome := .next (complete { s with tr := s.argType, trv := true })

/-- CT_FROM_STRING (R102). -/
def execCtFromString (s : State) : Outcome :=
  .next (needInput s fun b =>
    if s.ilen.toNat ≠ 4 then raise .invalidFormat 0 s
    else if (quadAt b 0).allAlpha then complete { s with tr := quadAt b 0, trv := true }
    else raise .invalidFormat 0 s)

/-- CT_BYTES (R103). -/
def execCtBytes (s : State) : Outcome := .next (typeQuery be32 s)

/-- CT_IS_CRITICAL (R105). -/
def execCtIsCritical (s : State) : Outcome := .next (typeQuery (fun t => zext32 (critical t)) s)

/-- CT_IS_PUBLIC (R106). -/
def execCtIsPublic (s : State) : Outcome := .next (typeQuery (fun t => zext32 (isPublic t)) s)

/-- CT_IS_RESERVED_BIT_VALID (R107). -/
def execCtIsReservedBitValid (s : State) : Outcome := .next (typeQuery (fun t => zext32 (reservedBitValid t)) s)

/-- CT_IS_SAFE_TO_COPY (R108). -/
def execCtIsSafeToCopy (s : State) : Outcome := .next (typeQuery (fun t => zext32 (safeToCopy t)) s)

/-- CT_IS_VALID (R109, R111). -/
def execCtIsValid (s : State) : Outcome := .next (typeQuery (fun t => zext32 (valid s.cfg t)) s)

end Sys2Proof.Machine
end

