-- ==== Sys2Proof/Machine/Container.lean ====
section
/-! DEFINITION. The container family (44_container.md). -/

namespace Sys2Proof.Machine

/-- PNG_PARSE (R174). -/
def execPngParse (s : State) : Outcome :=
  .next (needInput s fun b =>
    match parseStream s.cfg b with
    | .error e off => raise e (BitVec.ofNat 32 off) s
    | .ok cs => complete { s with cs := cs, csv := true, res := BitVec.ofNat 32 cs.length })

/-- PNG_APPEND (R175). -/
def execPngAppend (s : State) : Outcome :=
  .next (needChunk s fun c => needContainer s fun cs =>
    if cs.length + 1 > s.cfg.pMaxChunks ∨ storedBytes cs + c.length.toNat > s.cfg.pStoreBytes then raise .capacityExceeded 0 s
    else complete { s with cs := cs ++ [c] })

/-- PNG_REMOVE (R176). -/
def execPngRemove (s : State) : Outcome :=
  .next (needContainer s fun cs => needInput s fun key =>
    match findFirst s.cfg cs key with
    | .typeNotText i => raise .typeNotText (BitVec.ofNat 32 i) s
    | .none => raise .chunkNotFound 0 s
    | .found i c => complete { s with cr := c, crv := true, res := BitVec.ofNat 32 i, cs := cs.take i ++ cs.drop (i + 1) })

/-- PNG_CHUNK_BY_TYPE (R177). -/
def execPngChunkByType (s : State) : Outcome :=
  .next (needContainer s fun cs => needInput s fun key =>
    match findFirst s.cfg cs key with
    | .typeNotText i => raise .typeNotText (BitVec.ofNat 32 i) s
    | .none => complete { s with res := 0 }
    | .found _ c => complete { s with cr := c, crv := true, res := 1 })

/-- PNG_AS_BYTES (R178). -/
def execPngAsBytes (s : State) : Outcome :=
  .next (needContainer s fun cs => deliver s (containerBytes cs).length (containerBytes cs))

end Sys2Proof.Machine
end

