-- ==== Sys2Proof/Machine/Control.lean ====
section
/-! DEFINITION. The control family: SRST (R231). -/

namespace Sys2Proof.Machine

/-- SRST (R231). TR's and CR's bytes, IBUF and OBUF stay. -/
def execSrst (s : State) : Outcome :=
  .next (complete { s with
    trv := false, crv := false, csv := false, cs := [], esticky := false,
    arg := 0, res := 0, ilen := 0, olen := 0, eaddr := 0 })

end Sys2Proof.Machine
end

