-- ==== Sys2Proof/Machine/Crc.lean ====
section
/-! DEFINITION. The CRC family: CRC_COMPUTE (R125). -/

namespace Sys2Proof.Machine

/-- CRC_COMPUTE (R125). -/
def execCrcCompute (s : State) : Outcome := .next (needInput s fun b => complete { s with res := crc32 b })

end Sys2Proof.Machine
end

