-- ==== Sys2Proof/Machine/Dispatch.lean ====
section
/-! DEFINITION. The meaning of each command, one arm per row of the opcode table (R82). -/

namespace Sys2Proof.Machine

def exec (i : Instr) (s : State) : Host.Outcome State Fault Refusal :=
  match i with
  | .srst => Sys2Proof.Machine.execSrst s
  | .ctFromBytes => Sys2Proof.Machine.execCtFromBytes s
  | .ctFromString => Sys2Proof.Machine.execCtFromString s
  | .ctBytes => Sys2Proof.Machine.execCtBytes s
  | .ctIsCritical => Sys2Proof.Machine.execCtIsCritical s
  | .ctIsPublic => Sys2Proof.Machine.execCtIsPublic s
  | .ctIsReservedBitValid => Sys2Proof.Machine.execCtIsReservedBitValid s
  | .ctIsSafeToCopy => Sys2Proof.Machine.execCtIsSafeToCopy s
  | .ctIsValid => Sys2Proof.Machine.execCtIsValid s
  | .crcCompute => Sys2Proof.Machine.execCrcCompute s
  | .chunkNew => Sys2Proof.Machine.execChunkNew s
  | .chunkParse => Sys2Proof.Machine.execChunkParse s
  | .chunkAsBytes => Sys2Proof.Machine.execChunkAsBytes s
  | .chunkLength => Sys2Proof.Machine.execChunkLength s
  | .chunkType => Sys2Proof.Machine.execChunkType s
  | .chunkCrc => Sys2Proof.Machine.execChunkCrc s
  | .chunkData => Sys2Proof.Machine.execChunkData s
  | .pngParse => Sys2Proof.Machine.execPngParse s
  | .pngAppend => Sys2Proof.Machine.execPngAppend s
  | .pngRemove => Sys2Proof.Machine.execPngRemove s
  | .pngChunkByType => Sys2Proof.Machine.execPngChunkByType s
  | .pngAsBytes => Sys2Proof.Machine.execPngAsBytes s

end Sys2Proof.Machine
end

