-- ==== Sys2Proof/Machine/Perform.lean ====
section
/-! DEFINITION. What the block does with its turn: it performs the pending command word as one atomic step (R32, R70), or is idle (R218). -/

namespace Sys2Proof.Machine

/-- Perform one command word (R32): decode it (R81), then run the command, or raise IllegalCommand with the word (R205). -/
def perform (w : Word) (s : State) : Outcome :=
  match decode w with
  | .command i => exec i s
  | .illegal _ => .next (raise .illegalCommand w s)

/-- The block's step. Between commands it holds all of its state (R218). -/
def blockStep (s : State) : Outcome :=
  match s.pending with
  | some w => perform w s
  | none => .next s

/-- The state in which the block's very next step performs the word `w`: `w` stands accepted in CMD (R32) and the block has the turn,
before whatever the schedule holds (log entry 8). -/
def State.withPending (s : State) (w : Word) : State := { s with pending := some w, sched := .block :: s.sched }

end Sys2Proof.Machine
end

