-- ==== Sys2Proof/Machine/Step.lean ====
section
/-! DEFINITION. One step of the system of host, block and platform (R7, R70, R230). -/

namespace Sys2Proof.Machine

/-- One step: whoever has the turn moves, and the schedule moves on. -/
def step (s : State) : Host.Outcome State Fault Refusal :=
  match s.turn with
  | .block => blockStep s.endTurn
  | .host => hostStep s.endTurn
  | .powerOn => .next s.endTurn.powerOnReset

/-- `s` with the command word (as the opcode table numbers its bits) accepted in CMD and the block to move (log entry 8). -/
def State.withFetchWord (s : State) (nbits w : Nat) : State := s.withPending (tableWord nbits w)

end Sys2Proof.Machine
end

