-- ==== Sys2Proof/Safety.lean ====
section
/-! DEFINITION. The terms in which claims about the machine are made: the record of R30, the two ways a command ends on it, the invariants
of R34, R43, R48 and R49, and the relations used by the search and checksum laws. -/

namespace Sys2Proof.Machine

/-- The record of R30: "The complete state of the block is the following record. Nothing else is state." -/
structure Record where
  pending : Option Word
  err : BitVec 4
  trv : Bool
  crv : Bool
  csv : Bool
  esticky : Bool
  arg : Word
  res : Word
  ilen : Word
  olen : Word
  eaddr : Word
  tr : Quad
  cr : Chunk
  cs : List Chunk
  ibuf : Memory
  obuf : Memory
deriving DecidableEq, Repr

/-- The block's state as R30 lists it, without the model's own fields and CRCR. -/
def State.record (s : State) : Record where
  pending := s.pending
  err := s.err
  trv := s.trv
  crv := s.crv
  csv := s.csv
  esticky := s.esticky
  arg := s.arg
  res := s.res
  ilen := s.ilen
  olen := s.olen
  eaddr := s.eaddr
  tr := s.tr
  cr := s.cr
  cs := s.cs
  ibuf := s.ibuf
  obuf := s.obuf

/-- What `complete` writes (R204), on top of the command's own writes. -/
def Record.completed (r : Record) : Record := { r with err := 0, pending := none }

/-- What `raise E(info)` writes (R203): "exactly this". -/
def Record.raised (r : Record) (e : ErrKind) (info : Word) : Record :=
  { r with err := e.code, esticky := true, eaddr := info, pending := none }

/-- The command ends with a successful report, and the record is then `r` completed. -/
def Completes (i : Instr) (s : State) (r : Record) : Prop := ∃ t, exec i s = .next t ∧ t.record = r.completed

/-- The command ends with error `e` and information word `info`, and nothing else of the record changes (R203). -/
def Raises (i : Instr) (s : State) (e : ErrKind) (info : Word) : Prop :=
  ∃ t, exec i s = .next t ∧ t.record = s.record.raised e info

/-- The command ends successfully with the `n` bytes `b` in OBUF from offset 0 on and OLEN = n; every other OBUF byte and the rest of the
record stay (R63, R204). -/
def Delivers (i : Instr) (s : State) (n : Nat) (b : List Byte) : Prop :=
  ∃ t, exec i s = .next t ∧ t.olen.toNat = n ∧
    (∀ a, t.obuf.read? a = if a < n then b[a]? else s.obuf.read? a) ∧
    { t.record with obuf := s.obuf, olen := s.olen } = s.record.completed

/-- An ASCII letter by its numeric code (R15). -/
abbrev AsciiLetter (b : Byte) : Prop := (0x41 ≤ b.toNat ∧ b.toNat ≤ 0x5A) ∨ (0x61 ≤ b.toNat ∧ b.toNat ≤ 0x7A)

/-- The commands that read TR (R207, the "raised by" column of NoType in R200). -/
def typeReaders : List Instr :=
  [.ctBytes, .ctIsCritical, .ctIsPublic, .ctIsReservedBitValid, .ctIsSafeToCopy, .ctIsValid, .chunkNew]

/-- The commands that read CR (R207, the "raised by" column of NoChunk in R200). -/
def chunkReaders : List Instr := [.chunkAsBytes, .chunkLength, .chunkType, .chunkCrc, .chunkData, .pngAppend]

/-- The commands that read CS and not CR (R207, the "raised by" column of NoContainer in R200 less PNG_APPEND). -/
def containerReaders : List Instr := [.pngRemove, .pngChunkByType, .pngAsBytes]

/-- The commands that read IBUF (R232, item 1). -/
def inputReaders : List Instr := [.ctFromString, .crcCompute, .chunkNew, .chunkParse, .pngParse, .pngRemove, .pngChunkByType]

/-- The commands that write RES when they succeed (R41), SRST aside. -/
def resultWriters : List Instr :=
  [.ctBytes, .ctIsCritical, .ctIsPublic, .ctIsReservedBitValid, .ctIsSafeToCopy, .ctIsValid, .crcCompute, .chunkParse, .chunkLength,
   .chunkType, .chunkCrc, .pngParse, .pngRemove, .pngChunkByType]

/-- The commands that write OBUF when they succeed (R63). -/
def outputWriters : List Instr := [.chunkAsBytes, .chunkData, .pngAsBytes]

/-- The invariants of R48 on a chunk record. -/
def Chunk.Consistent (c : Chunk) : Prop :=
  c.length.toNat = c.data.length ∧ c.crc = crc32 (c.type.bytes ++ c.data)

/-- What "always holds" of the block's state by R34, R43, R48 and R49, that CS is empty while CSV = 0 (R55), that the parameters meet
R8, and that the two buffers are in canonical form and inside their capacity (R30). -/
structure State.Inv (s : State) : Prop where
  cfgWf : s.cfg.wf = true
  errCode : s.err.toNat ≤ 11
  olenFits : s.olen.toNat ≤ s.cfg.pObufBytes
  crConsistent : s.crv = true → s.cr.Consistent ∧ s.cr.data.length ≤ s.cfg.pIbufBytes
  csConsistent : ∀ c ∈ s.cs, c.Consistent ∧ c.data.length ≤ s.cfg.pIbufBytes
  csCount : s.cs.length ≤ s.cfg.pMaxChunks
  csBytes : storedBytes s.cs ≤ s.cfg.pStoreBytes
  csEmpty : s.csv = false → s.cs = []
  ibufWf : s.ibuf.wf
  ibufCells : ∀ x ∈ s.ibuf, x.1 < s.cfg.pIbufBytes
  obufWf : s.obuf.wf
  obufCells : ∀ x ∈ s.obuf, x.1 < s.cfg.pObufBytes

/-- An entry a by-type search goes past (R172): under `no_match` every entry that is not text or does not match, under `fault` every entry
that is text and does not match. -/
def Passes (mode : NonUtf8Match) (key : List Byte) (c : Chunk) : Prop :=
  match mode with
  | .noMatch => ¬(utf8 c.type = true ∧ key = c.type.bytes)
  | .fault => utf8 c.type = true ∧ key ≠ c.type.bytes

/-- The sequence with bit `j` of the byte at index `i` flipped (R127, R151). -/
def flipBit (s : List Byte) (i j : Nat) : List Byte := s.modify i fun b => b ^^^ (1#8 <<< j)

/-- The errors a command may raise: the "raised by" column of R200. -/
def errorsOf : Instr → List ErrKind
  | .srst => []
  | .ctFromBytes => []
  | .ctFromString => [.invalidFormat, .capacityExceeded]
  | .ctBytes => [.noType]
  | .ctIsCritical => [.noType]
  | .ctIsPublic => [.noType]
  | .ctIsReservedBitValid => [.noType]
  | .ctIsSafeToCopy => [.noType]
  | .ctIsValid => [.noType]
  | .crcCompute => [.capacityExceeded]
  | .chunkNew => [.noType, .capacityExceeded]
  | .chunkParse => [.checksumMismatch, .truncated, .capacityExceeded]
  | .chunkAsBytes => [.noChunk, .capacityExceeded]
  | .chunkLength => [.noChunk]
  | .chunkType => [.noChunk]
  | .chunkCrc => [.noChunk]
  | .chunkData => [.noChunk, .capacityExceeded]
  | .pngParse => [.checksumMismatch, .truncated, .invalidSignature, .capacityExceeded]
  | .pngAppend => [.noChunk, .noContainer, .capacityExceeded]
  | .pngRemove => [.chunkNotFound, .noContainer, .capacityExceeded, .typeNotText]
  | .pngChunkByType => [.noContainer, .capacityExceeded, .typeNotText]
  | .pngAsBytes => [.noContainer, .capacityExceeded]

/-- Two states that differ only in what no command can read: the bytes of TR while TRV = 0, of CR while CRV = 0, and CRCR (R50, R55). -/
structure State.SameReadable (s t : State) : Prop where
  trv : s.trv = t.trv
  crv : s.crv = t.crv
  tr : s.trv = true → s.tr = t.tr
  cr : s.crv = true → s.cr = t.cr
  rest : { s with tr := t.tr, cr := t.cr, crcr := t.crcr } = t

end Sys2Proof.Machine
end

