-- ==== Sys2Proof/Certificates/Slice0/Obligations.lean ====
section
/-! DEFINITION. The statements for the provers, in the order of OBLIGATIONS.json. `Completes`, `Raises`, `Delivers` (Safety.lean) each say that
exec ANSWERS A NEXT STATE and give the whole record of R30 after it, so a statement made of them says the result, the frame and that the
command completes. -/

open Sys2Proof Sys2Proof.Machine

/-! ## Reset -/

/-- R55, both columns. (TR, CR and CRCR are unspecified at power-on: nothing is stated of them.) -/
def Obligations.PowerOnAndSoftResetValues : Prop :=
  (∀ p : State, (p = State.reset ∨ ∃ cfg : Config, p = State.powerOn cfg) →
    p.pending = none ∧ p.err = 0 ∧ p.trv = false ∧ p.crv = false ∧ p.csv = false ∧ p.esticky = false ∧
    p.arg = 0 ∧ p.res = 0 ∧ p.ilen = 0 ∧ p.olen = 0 ∧ p.eaddr = 0 ∧ p.ccount = 0 ∧ p.cs = [] ∧
    (∀ a, p.ibuf.read? a = none) ∧ ∀ a, p.obuf.read? a = none) ∧
  ∀ s : State, ∃ t, exec .srst s = .next t ∧
    t.pending = none ∧ t.err = 0 ∧ t.trv = false ∧ t.crv = false ∧ t.csv = false ∧ t.esticky = false ∧
    t.arg = 0 ∧ t.res = 0 ∧ t.ilen = 0 ∧ t.olen = 0 ∧ t.eaddr = 0 ∧ t.ccount = 0 ∧ t.cs = [] ∧
    t.tr = s.tr ∧ t.cr = s.cr ∧ (∀ a, t.ibuf.read? a = s.ibuf.read? a) ∧ ∀ a, t.obuf.read? a = s.obuf.read? a

/-- R231: SRST, its word, its whole effect on the record, STATUS and CCOUNT after it, and that in a state already reset it changes
nothing of the record. -/
def Obligations.SoftResetResult : Prop :=
  encode .srst = 0x00000001 ∧
  (∀ s : State, ∃ t, exec .srst s = .next t ∧
    t.record = { s.record with
      pending := none, err := 0, trv := false, crv := false, csv := false, cs := [], esticky := false,
      arg := 0, res := 0, ilen := 0, olen := 0, eaddr := 0 } ∧
    t.statusWord = 0 ∧ t.ccount = 0) ∧
  ∀ s : State, s.statusWord = 0 → s.cs = [] → s.arg = 0 → s.res = 0 → s.ilen = 0 → s.olen = 0 → s.eaddr = 0 →
    ∃ t, exec .srst s = .next t ∧ t.record = s.record

/-- R230: a power-on reset leaves the power-on values whatever is pending, the block accepts a command at once, and the parameters and
the host are not the block's. (The order of turns is the model's choice, log entries 6 and 9.) -/
def Obligations.PowerOnResetDiscardsThePendingCommand : Prop :=
  ∀ s : State, s.turn = .powerOn → ∃ t, step s = .next t ∧
    { t.record with tr := s.tr, cr := s.cr } = { (State.powerOn s.cfg).record with tr := s.tr, cr := s.cr } ∧
    t.cfg = s.cfg ∧ t.host = s.host ∧
    ∀ w, ∃ u, hostWrite (regAccess t.cfg .cmd) w t = .ok u ∧ u.pending = some w

/-- The power-on state meets the invariant, for all parameters R8 allows, and so does State.reset. -/
def Obligations.ResetMeetsTheInvariant : Prop :=
  (∀ cfg : Config, cfg.wf = true → (State.powerOn cfg).Inv) ∧ State.reset.Inv

/-- R34, R43, R48, R49, R30: every step of the system keeps what "always holds" of the block's state. -/
def Obligations.StepKeepsTheInvariant : Prop :=
  ∀ s t : State, s.Inv → step s = .next t → t.Inv

/-! ## Decoding and performing a command word -/

/-- R81, R82: the decoder and the encoder agree in both directions. -/
def Obligations.DecodeAndEncodeAgree : Prop :=
  (∀ i : Instr, i.wf = true → decode (encode i) = .command i) ∧ ∀ (w : Word) (i : Instr), decode w = .command i → w = encode i

/-- R82: words of each group, written out bit by bit from format F0 (24 zero bits, then the opcode), decode to their command. -/
def Obligations.WrittenOutWordsDecode : Prop :=
  decode 0b00000000000000000000000000000001#32 = .command .srst ∧
  decode 0b00000000000000000000000000010001#32 = .command .ctFromString ∧
  decode 0b00000000000000000000000000010111#32 = .command .ctIsValid ∧
  decode 0b00000000000000000000000000100000#32 = .command .crcCompute ∧
  decode 0b00000000000000000000000000110001#32 = .command .chunkParse ∧
  decode 0b00000000000000000000000001000100#32 = .command .pngAsBytes ∧
  decode 0b10000000000000000000000000010000#32 = .illegal .zeroFieldNonzero ∧
  decode 0b00000000000000000000000000011000#32 = .illegal .opcodeUnassigned

/-- R83: the illegal words are exactly those the rule lists, and performing one reports IllegalCommand with the word and changes nothing
else. -/
def Obligations.IllegalWordsAndTheirReport : Prop :=
  (∀ w : Word, (∃ why, decode w = .illegal why) ↔
    (w.extractLsb' 8 24 ≠ 0 ∨ w = 0 ∨
      ∃ op : Nat, op = (w.extractLsb' 0 8).toNat ∧
        ((0x02 ≤ op ∧ op ≤ 0x0F) ∨ (0x18 ≤ op ∧ op ≤ 0x1F) ∨ (0x21 ≤ op ∧ op ≤ 0x2F) ∨ (0x37 ≤ op ∧ op ≤ 0x3F) ∨
          (0x45 ≤ op ∧ op ≤ 0xFF)))) ∧
  ∀ (w : Word) (why : Illegal) (s : State), decode w = .illegal why →
    ∃ t, perform w s = .next t ∧ t.record = { s.record with err := 6, esticky := true, eaddr := w, pending := none }

/-- R32, R81: when the block has the turn and a word is pending, the step is exec of the command the word decodes to, or the report of
IllegalCommand; only the schedule has moved on. The state with a fetch word steps to exec of that command. (The schedule is the model's,
log entries 6 and 8.) -/
def Obligations.StepRunsTheDecodedCommand : Prop :=
  (∀ (s : State) (w : Word) (i : Instr), s.turn = .block → s.pending = some w → decode w = .command i →
    step s = exec i { s with sched := s.sched.tail }) ∧
  (∀ (s : State) (w : Word) (why : Illegal), s.turn = .block → s.pending = some w → decode w = .illegal why →
    step s = .next (raise .illegalCommand w { s with sched := s.sched.tail })) ∧
  ∀ (s : State) (i : Instr), step (s.withFetchWord 32 (encode i).toNat) = exec i { s with pending := some (encode i) }

/-- R218: between commands the block is idle and holds all of its state. -/
def Obligations.IdleBlockHoldsItsState : Prop :=
  ∀ s : State, s.turn = .block → s.pending = none → ∃ t, step s = .next t ∧ t.record = s.record ∧ t.crcr = s.crcr ∧ t.draws = s.draws

/-! ## How every command ends -/

/-- R32, R70, R246: every command, in every state, is performed in one step that clears BUSY; it never stops the block, and it leaves the
parameters, the host and the schedule alone. -/
def Obligations.EveryCommandEndsInOneStep : Prop :=
  ∀ (i : Instr) (s : State), ∃ t, exec i s = .next t ∧ t.pending = none ∧ t.cfg = s.cfg ∧ t.host = s.host ∧ t.sched = s.sched

/-- R203: a command that ends with an error wrote exactly ERR, ESTICKY, EADDR and BUSY; everything else of the record is as before. -/
def Obligations.ErrorsChangeOnlyTheReport : Prop :=
  ∀ (i : Instr) (s t : State), exec i s = .next t → t.err ≠ 0 →
    ∃ e info, t.record = { s.record with err := ErrKind.code e, esticky := true, eaddr := info, pending := none }

/-- R204: a command that ends successfully has ERR = 0 and BUSY = 0, and, SRST's own writes (R231) aside, ESTICKY and EADDR as before. -/
def Obligations.SuccessKeepsStickyAndErrorAddress : Prop :=
  ∀ (i : Instr) (s t : State), exec i s = .next t → t.err = 0 →
    t.pending = none ∧ (i ≠ .srst → t.esticky = s.esticky ∧ t.eaddr = s.eaddr)

/-- R200, R201: the codes, that each command raises only the errors the table lists for it, and with the information word the table
gives: 0 but for a chunk offset of PNG_PARSE (below ILEN) and the CS index of TypeNotText (below |CS|). -/
def Obligations.OnlyListedErrorsAreRaised : Prop :=
  (ErrKind.code .invalidFormat = 1 ∧ ErrKind.code .checksumMismatch = 2 ∧ ErrKind.code .truncated = 3 ∧
    ErrKind.code .invalidSignature = 4 ∧ ErrKind.code .chunkNotFound = 5 ∧ ErrKind.code .illegalCommand = 6 ∧
    ErrKind.code .noType = 7 ∧ ErrKind.code .noChunk = 8 ∧ ErrKind.code .noContainer = 9 ∧
    ErrKind.code .capacityExceeded = 10 ∧ ErrKind.code .typeNotText = 11) ∧
  ∀ (i : Instr) (s t : State), s.Inv → exec i s = .next t → t.err ≠ 0 →
    ∃ e ∈ errorsOf i, t.err = ErrKind.code e ∧
      (t.eaddr = 0 ∨
        (i = .pngParse ∧ (e = .truncated ∨ e = .checksumMismatch ∨ e = .capacityExceeded) ∧
          8 ≤ t.eaddr.toNat ∧ t.eaddr.toNat < s.ilen.toNat) ∨
        (e = .typeNotText ∧ t.eaddr.toNat < s.cs.length))

/-- R38: every error sets ESTICKY; of the commands only SRST clears it; a host write cannot; and over steps it is cleared by nothing but
power-on reset and the performing of SRST. -/
def Obligations.StickyErrorIsClearedOnlyByReset : Prop :=
  (∀ (i : Instr) (s t : State), exec i s = .next t → t.err ≠ 0 → t.esticky = true) ∧
  (∀ (i : Instr) (s t : State), exec i s = .next t → i ≠ .srst → s.esticky = true → t.esticky = true) ∧
  (∀ (a : Access) (v : Word) (s t : State), hostWrite a v s = .ok t → t.esticky = s.esticky) ∧
  ∀ s t : State, step s = .next t → s.esticky = true → t.esticky = false →
    s.turn = .powerOn ∨ (s.turn = .block ∧ s.pending = some (encode .srst))

/-- R35, R36, R37, R207: what sets each valid bit, that only SRST (and reset) clears it, and that a command that reads an empty value
register raises NoType, NoChunk or NoContainer. -/
def Obligations.ValidBitsFollowTheValueRegisters : Prop :=
  (∀ (i : Instr) (s t : State), exec i s = .next t →
    (t.trv = true ↔ i ≠ .srst ∧ (s.trv = true ∨ (t.err = 0 ∧ i ∈ [Instr.ctFromBytes, .ctFromString, .chunkType]))) ∧
    (t.crv = true ↔ i ≠ .srst ∧ (s.crv = true ∨
      (t.err = 0 ∧ (i ∈ [Instr.chunkNew, .chunkParse, .pngRemove] ∨ (i = .pngChunkByType ∧ t.res = 1))))) ∧
    (t.csv = true ↔ i ≠ .srst ∧ (s.csv = true ∨ (t.err = 0 ∧ i = .pngParse)))) ∧
  (∀ (i : Instr) (s : State), s.trv = false → i ∈ typeReaders → Raises i s .noType 0) ∧
  (∀ (i : Instr) (s : State), s.crv = false → i ∈ chunkReaders → Raises i s .noChunk 0) ∧
  (∀ (i : Instr) (s : State), s.csv = false → i ∈ containerReaders → Raises i s .noContainer 0) ∧
  ∀ s : State, s.crv = true → s.csv = false → Raises .pngAppend s .noContainer 0

/-- R206 (a), R202: a command that reads IBUF, its value registers being valid, raises CapacityExceeded when ILEN > P_IBUF_BYTES, before
any check of its own. -/
def Obligations.InputBeyondCapacityIsReported : Prop :=
  ∀ (i : Instr) (s : State), i ∈ inputReaders → (i ∈ typeReaders → s.trv = true) → (i ∈ containerReaders → s.csv = true) →
    s.cfg.pIbufBytes < s.ilen.toNat → Raises i s .capacityExceeded 0

/-- R40, R42, R62: no command writes an IBUF cell, and none but SRST (R231, log entry 16) writes ARG or ILEN. -/
def Obligations.CommandsLeaveTheirOperandsAlone : Prop :=
  ∀ (i : Instr) (s t : State), exec i s = .next t →
    (∀ a, t.ibuf.read? a = s.ibuf.read? a) ∧ (i ≠ .srst → t.arg = s.arg ∧ t.ilen = s.ilen)

/-- R41: RES is written by the listed commands when they succeed, by SRST (R231, log entry 16), and by no other. -/
def Obligations.OnlyListedCommandsWriteTheResult : Prop :=
  ∀ (i : Instr) (s t : State), exec i s = .next t → i ≠ .srst → (i ∉ resultWriters ∨ t.err ≠ 0) → t.res = s.res

/-- R63: only CHUNK_AS_BYTES, CHUNK_DATA and PNG_AS_BYTES write OBUF (and, SRST aside, OLEN); each writes below its OLEN only, and an
error writes nothing. -/
def Obligations.OnlyThreeCommandsWriteTheOutputBuffer : Prop :=
  ∀ (i : Instr) (s t : State), s.Inv → exec i s = .next t →
    ((i ∉ outputWriters ∨ t.err ≠ 0) → (∀ a, t.obuf.read? a = s.obuf.read? a) ∧ (i ≠ .srst → t.olen = s.olen)) ∧
    (i ∈ outputWriters → t.err = 0 → ∀ a,
      (t.olen.toNat ≤ a → t.obuf.read? a = s.obuf.read? a) ∧ (a < t.olen.toNat → t.obuf.read? a ≠ none))

/-! ## Chunk types -/

/-- R101: CT_FROM_BYTES. -/
def Obligations.TypeFromBytesResult : Prop :=
  encode .ctFromBytes = 0x00000010 ∧
  ∀ s : State, Completes .ctFromBytes s { s.record with
    tr := ⟨s.arg.extractLsb' 24 8, s.arg.extractLsb' 16 8, s.arg.extractLsb' 8 8, s.arg.extractLsb' 0 8⟩, trv := true }

/-- R102: CT_FROM_STRING: CapacityExceeded, the four letters accepted, or InvalidFormat. -/
def Obligations.TypeFromStringResult : Prop :=
  encode .ctFromString = 0x00000011 ∧
  ∀ s : State,
    (s.cfg.pIbufBytes < s.ilen.toNat → Raises .ctFromString s .capacityExceeded 0) ∧
    (s.ilen.toNat ≤ s.cfg.pIbufBytes → s.ilen = 4 → (∀ k < 4, AsciiLetter (s.ibufByte k)) →
      Completes .ctFromString s { s.record with
        tr := ⟨s.ibufByte 0, s.ibufByte 1, s.ibufByte 2, s.ibufByte 3⟩, trv := true }) ∧
    (s.ilen.toNat ≤ s.cfg.pIbufBytes → (s.ilen ≠ 4 ∨ ∃ k < 4, ¬AsciiLetter (s.ibufByte k)) →
      Raises .ctFromString s .invalidFormat 0)

/-- R103: CT_BYTES: the packed type (R66), or NoType. -/
def Obligations.TypeBytesResult : Prop :=
  encode .ctBytes = 0x00000012 ∧
  ∀ s : State,
    (s.trv = true → Completes .ctBytes s { s.record with
      res := BitVec.ofNat 32 (s.tr.b0.toNat * 2 ^ 24 + s.tr.b1.toNat * 2 ^ 16 + s.tr.b2.toNat * 2 ^ 8 + s.tr.b3.toNat) }) ∧
    (s.trv = false → Raises .ctBytes s .noType 0)

/-- R105, R106, R107, R108 with R104: the four property predicates, each on bit 0x20 of its byte, or NoType. -/
def Obligations.TypePropertyResults : Prop :=
  (encode .ctIsCritical = 0x00000013 ∧ encode .ctIsPublic = 0x00000014 ∧ encode .ctIsReservedBitValid = 0x00000015 ∧
    encode .ctIsSafeToCopy = 0x00000016) ∧
  ∀ s : State,
    (s.trv = true →
      Completes .ctIsCritical s { s.record with res := if s.tr.b0 &&& 0x20 = 0 then 1 else 0 } ∧
      Completes .ctIsPublic s { s.record with res := if s.tr.b1 &&& 0x20 = 0 then 1 else 0 } ∧
      Completes .ctIsReservedBitValid s { s.record with res := if s.tr.b2 &&& 0x20 = 0 then 1 else 0 } ∧
      Completes .ctIsSafeToCopy s { s.record with res := if s.tr.b3 &&& 0x20 ≠ 0 then 1 else 0 }) ∧
    (s.trv = false →
      Raises .ctIsCritical s .noType 0 ∧ Raises .ctIsPublic s .noType 0 ∧ Raises .ctIsReservedBitValid s .noType 0 ∧
      Raises .ctIsSafeToCopy s .noType 0)

/-- R109 with R111: CT_IS_VALID under both settings of P_VALID_ALPHA, or NoType. -/
def Obligations.TypeValidityResult : Prop :=
  encode .ctIsValid = 0x00000017 ∧
  ∀ s : State,
    (s.trv = true → Completes .ctIsValid s { s.record with
      res := if s.tr.b2 &&& 0x20 = 0 ∧
          (s.cfg.pValidAlpha = true → AsciiLetter s.tr.b0 ∧ AsciiLetter s.tr.b1 ∧ AsciiLetter s.tr.b2 ∧ AsciiLetter s.tr.b3)
        then 1 else 0 }) ∧
    (s.trv = false → Raises .ctIsValid s .noType 0)

/-- R103's corner case and R12: CT_FROM_BYTES with ARG = w, then CT_BYTES, gives RES = w for every w; the big-endian reading and encoding
are inverse to each other. -/
def Obligations.RawTypeComesBackAsWritten : Prop :=
  (∀ s : State, ∃ t u, exec .ctFromBytes s = .next t ∧ exec .ctBytes t = .next u ∧ u.err = 0 ∧ u.res = s.arg) ∧
  (∀ v : Word, be32 (u32be v) = v) ∧ ∀ q : Quad, u32be (be32 q) = q

/-! ## The CRC generator -/

/-- R125: CRC_COMPUTE. -/
def Obligations.CrcComputeResult : Prop :=
  encode .crcCompute = 0x00000020 ∧
  ∀ s : State,
    (s.ilen.toNat ≤ s.cfg.pIbufBytes → Completes .crcCompute s { s.record with
      res := crc32 ((List.range s.ilen.toNat).map s.ibufByte) }) ∧
    (s.cfg.pIbufBytes < s.ilen.toNat → Raises .crcCompute s .capacityExceeded 0)

/-- R126: known values of crc32, the source's own 2882656334 among them. -/
def Obligations.CrcKnownValues : Prop :=
  crc32 [] = 0x00000000 ∧ crc32 [0x00] = 0xD202EF8D ∧ crc32 [0x61] = 0xE8B7BE43 ∧
  crc32 [0x31, 0x32, 0x33, 0x34, 0x35, 0x36, 0x37, 0x38, 0x39] = 0xCBF43926 ∧
  crc32 [0x49, 0x45, 0x4E, 0x44] = 0xAE426082 ∧ crc32 [0x49, 0x48, 0x44, 0x52] = 0xA8A1AE0A ∧
  crc32 [0x52, 0x75, 0x53, 0x74] = 0xD484093C ∧
  crc32 [0x52, 0x75, 0x53, 0x74, 0x54, 0x68, 0x69, 0x73, 0x20, 0x69, 0x73, 0x20, 0x77, 0x68, 0x65, 0x72, 0x65, 0x20, 0x79, 0x6F, 0x75,
    0x72, 0x20, 0x73, 0x65, 0x63, 0x72, 0x65, 0x74, 0x20, 0x6D, 0x65, 0x73, 0x73, 0x61, 0x67, 0x65, 0x20, 0x77, 0x69, 0x6C, 0x6C, 0x20,
    0x62, 0x65, 0x21] = 2882656334

/-- R123: the table the spec prints is the inner loop started from each byte, and the table-driven update is the bitwise update. -/
def Obligations.CrcTableFormIsTheBitwiseForm : Prop :=
  crcTable.length = 256 ∧ (∀ n < 256, crcTable[n]? = some (crcShifts 8 (BitVec.ofNat 32 n))) ∧
  ∀ (r : Word) (b : Byte), crcTableUpdate r b = crcUpdate r b

/-- R127: flipping any single bit of a sequence changes its CRC. -/
def Obligations.SingleBitFlipChangesTheCrc : Prop :=
  ∀ (s : List Byte) (i j : Nat), i < s.length → j < 8 → crc32 (flipBit s i j) ≠ crc32 s

/-! ## Chunks -/

/-- R142: CHUNK_NEW. -/
def Obligations.ChunkNewResult : Prop :=
  encode .chunkNew = 0x00000030 ∧
  ∀ s : State,
    (s.trv = false → Raises .chunkNew s .noType 0) ∧
    (s.trv = true → s.cfg.pIbufBytes < s.ilen.toNat → Raises .chunkNew s .capacityExceeded 0) ∧
    (s.trv = true → s.ilen.toNat ≤ s.cfg.pIbufBytes → ∀ d, d = (List.range s.ilen.toNat).map s.ibufByte →
      Completes .chunkNew s { s.record with
        cr := { type := s.tr, data := d, length := s.ilen, crc := crc32 (s.tr.bytes ++ d) }, crv := true })

/-- R143, R150: `parseChunk` accepts exactly the sequences that begin with the frame of a consistent chunk, and returns that chunk and its
encoded size; it reports Truncated exactly when 12 bytes, or 12 + L bytes, are not there, whatever the sum. -/
def Obligations.ParseChunkAcceptsExactlyFrames : Prop :=
  (∀ (s : List Byte) (c : Chunk) (k : Nat), parseChunk s = .ok c k ↔
    c.Consistent ∧ k = 12 + c.length.toNat ∧ ∃ tail, s = frame c ++ tail) ∧
  ∀ s : List Byte, parseChunk s = .truncated ↔ s.length < 12 ∨ s.length < 12 + (be32 (quadAt s 0)).toNat

/-- R144: CHUNK_PARSE. -/
def Obligations.ChunkParseResult : Prop :=
  encode .chunkParse = 0x00000031 ∧
  ∀ s : State,
    (s.cfg.pIbufBytes < s.ilen.toNat → Raises .chunkParse s .capacityExceeded 0) ∧
    (s.ilen.toNat ≤ s.cfg.pIbufBytes → ∀ b, b = (List.range s.ilen.toNat).map s.ibufByte →
      ((s.ilen.toNat < 12 ∨ s.ilen.toNat < 12 + (be32 (quadAt b 0)).toNat) → Raises .chunkParse s .truncated 0) ∧
      (12 ≤ s.ilen.toNat → ∀ (l : Nat) (t : Quad) (d : List Byte) (c : Word), l = (be32 (quadAt b 0)).toNat → 12 + l ≤ s.ilen.toNat →
        t = quadAt b 4 → d = slice b 8 (8 + l) → c = be32 (quadAt b (8 + l)) →
        (crc32 (t.bytes ++ d) ≠ c → Raises .chunkParse s .checksumMismatch 0) ∧
        (crc32 (t.bytes ++ d) = c → Completes .chunkParse s { s.record with
          cr := { type := t, data := d, length := BitVec.ofNat 32 l, crc := c }, crv := true, res := BitVec.ofNat 32 (12 + l) })))

/-- R145 with R141: CHUNK_AS_BYTES. The invariant gives CR.length = |CR.data| while CRV = 1 (R48). -/
def Obligations.ChunkAsBytesResult : Prop :=
  encode .chunkAsBytes = 0x00000032 ∧
  ∀ s : State, s.Inv →
    (s.crv = false → Raises .chunkAsBytes s .noChunk 0) ∧
    (s.crv = true → s.cfg.pObufBytes < 12 + s.cr.length.toNat → Raises .chunkAsBytes s .capacityExceeded 0) ∧
    (s.crv = true → 12 + s.cr.length.toNat ≤ s.cfg.pObufBytes →
      Delivers .chunkAsBytes s (12 + s.cr.length.toNat)
        ((u32be s.cr.length).bytes ++ s.cr.type.bytes ++ s.cr.data ++ (u32be s.cr.crc).bytes))

/-- R149: CHUNK_DATA. -/
def Obligations.ChunkDataResult : Prop :=
  encode .chunkData = 0x00000036 ∧
  ∀ s : State, s.Inv →
    (s.crv = false → Raises .chunkData s .noChunk 0) ∧
    (s.crv = true → s.cfg.pObufBytes < s.cr.length.toNat → Raises .chunkData s .capacityExceeded 0) ∧
    (s.crv = true → s.cr.length.toNat ≤ s.cfg.pObufBytes → Delivers .chunkData s s.cr.length.toNat s.cr.data)

/-- R146, R147, R148: the accessors CHUNK_LENGTH, CHUNK_TYPE and CHUNK_CRC; CR is unchanged. -/
def Obligations.ChunkAccessorResults : Prop :=
  (encode .chunkLength = 0x00000033 ∧ encode .chunkType = 0x00000034 ∧ encode .chunkCrc = 0x00000035) ∧
  ∀ s : State,
    (s.crv = true →
      Completes .chunkLength s { s.record with res := s.cr.length } ∧
      Completes .chunkType s { s.record with tr := s.cr.type, trv := true, res := be32 s.cr.type } ∧
      Completes .chunkCrc s { s.record with res := s.cr.crc }) ∧
    (s.Inv → s.crv = true → s.cr.crc = crc32 (s.cr.type.bytes ++ s.cr.data)) ∧
    (s.crv = false →
      Raises .chunkLength s .noChunk 0 ∧ Raises .chunkType s .noChunk 0 ∧ Raises .chunkCrc s .noChunk 0)

/-- R151: flipping any single bit of the type, payload or checksum of a serialized chunk makes the parse report ChecksumMismatch. -/
def Obligations.ChecksumDetectsEveryBitFlip : Prop :=
  ∀ (t : Quad) (d : List Byte) (i j : Nat), d.length < 2 ^ 32 → 4 ≤ i → i < 12 + d.length → j < 8 →
    parseChunk (flipBit (frame (mkChunk t d)) i j) = .checksumMismatch

/-- R150 on the machine: a chunk built by CHUNK_NEW, serialized by CHUNK_AS_BYTES and parsed back by CHUNK_PARSE from those bytes is the
same chunk, and RES is its encoded size. -/
def Obligations.ChunkRoundTripThroughTheBuffers : Prop :=
  ∀ s : State, s.Inv → s.trv = true → 12 + s.ilen.toNat ≤ s.cfg.pIbufBytes → 12 + s.ilen.toNat ≤ s.cfg.pObufBytes →
    ∃ t u, exec .chunkNew s = .next t ∧ exec .chunkAsBytes t = .next u ∧ u.olen.toNat = 12 + s.ilen.toNat ∧
      ∀ v : State, v.cfg = u.cfg → v.ilen = u.olen → (∀ a < u.olen.toNat, v.ibuf.read? a = u.obuf.read? a) →
        ∃ x, exec .chunkParse v = .next x ∧ x.err = 0 ∧ x.cr = t.cr ∧ x.crv = true ∧ x.res.toNat = 12 + s.ilen.toNat

/-! ## Containers -/

/-- R174: PNG_PARSE: capacity, then the signature, then the chunks in stream order. A stream that is the bytes of a container within the
capacities becomes CS; otherwise the first chunk that fails, after the chunks `cs` before it, gives the error and its offset. -/
def Obligations.PngParseResult : Prop :=
  encode .pngParse = 0x00000040 ∧
  ∀ s : State,
    (s.cfg.pIbufBytes < s.ilen.toNat → Raises .pngParse s .capacityExceeded 0) ∧
    (s.ilen.toNat ≤ s.cfg.pIbufBytes → ∀ b, b = (List.range s.ilen.toNat).map s.ibufByte →
      ((b.length < 8 ∨ slice b 0 8 ≠ signature) → Raises .pngParse s .invalidSignature 0) ∧
      ∀ cs : List Chunk, (∀ c ∈ cs, c.Consistent) → cs.length ≤ s.cfg.pMaxChunks → storedBytes cs ≤ s.cfg.pStoreBytes →
        (b = containerBytes cs →
          Completes .pngParse s { s.record with cs := cs, csv := true, res := BitVec.ofNat 32 cs.length }) ∧
        ∀ (rest : List Byte) (off : Nat), rest ≠ [] → b = containerBytes cs ++ rest → off = (containerBytes cs).length →
          (parseChunk rest = .truncated → Raises .pngParse s .truncated (BitVec.ofNat 32 off)) ∧
          (parseChunk rest = .checksumMismatch → Raises .pngParse s .checksumMismatch (BitVec.ofNat 32 off)) ∧
          ∀ (c : Chunk) (k : Nat), parseChunk rest = .ok c k →
            (cs.length + 1 > s.cfg.pMaxChunks ∨ storedBytes cs + c.length.toNat > s.cfg.pStoreBytes) →
            Raises .pngParse s .capacityExceeded (BitVec.ofNat 32 off))

/-- R175: PNG_APPEND. -/
def Obligations.PngAppendResult : Prop :=
  encode .pngAppend = 0x00000041 ∧
  ∀ s : State,
    (s.crv = false → Raises .pngAppend s .noChunk 0) ∧
    (s.crv = true → s.csv = false → Raises .pngAppend s .noContainer 0) ∧
    (s.crv = true → s.csv = true →
      (s.cs.length + 1 > s.cfg.pMaxChunks ∨ storedBytes s.cs + s.cr.length.toNat > s.cfg.pStoreBytes) →
      Raises .pngAppend s .capacityExceeded 0) ∧
    (s.crv = true → s.csv = true → s.cs.length + 1 ≤ s.cfg.pMaxChunks →
      storedBytes s.cs + s.cr.length.toNat ≤ s.cfg.pStoreBytes →
      Completes .pngAppend s { s.record with cs := s.cs ++ [s.cr] })

/-- R176 with R171 and R172: PNG_REMOVE takes the first entry whose type is text and equals the key; under P_NONUTF8_MATCH = fault it stops
at an entry before it that is not text; else ChunkNotFound. -/
def Obligations.PngRemoveResult : Prop :=
  encode .pngRemove = 0x00000042 ∧
  ∀ s : State,
    (s.csv = false → Raises .pngRemove s .noContainer 0) ∧
    (s.csv = true → s.cfg.pIbufBytes < s.ilen.toNat → Raises .pngRemove s .capacityExceeded 0) ∧
    (s.csv = true → s.ilen.toNat ≤ s.cfg.pIbufBytes → ∀ key, key = (List.range s.ilen.toNat).map s.ibufByte →
      (∀ (pre post : List Chunk) (c : Chunk), s.cs = pre ++ c :: post → (∀ x ∈ pre, Passes s.cfg.pNonUtf8Match key x) →
        (utf8 c.type = true → key = c.type.bytes → Completes .pngRemove s { s.record with
          cr := c, crv := true, res := BitVec.ofNat 32 pre.length, cs := pre ++ post }) ∧
        (s.cfg.pNonUtf8Match = .fault → utf8 c.type = false → Raises .pngRemove s .typeNotText (BitVec.ofNat 32 pre.length))) ∧
      ((∀ x ∈ s.cs, Passes s.cfg.pNonUtf8Match key x) → Raises .pngRemove s .chunkNotFound 0))

/-- R177 with R171 and R172: PNG_CHUNK_BY_TYPE: the first matching entry into CR with RES = 1, or RES = 0 with CR as before; CS is never
changed and ChunkNotFound is never raised. -/
def Obligations.PngChunkByTypeResult : Prop :=
  encode .pngChunkByType = 0x00000043 ∧
  ∀ s : State,
    (s.csv = false → Raises .pngChunkByType s .noContainer 0) ∧
    (s.csv = true → s.cfg.pIbufBytes < s.ilen.toNat → Raises .pngChunkByType s .capacityExceeded 0) ∧
    (s.csv = true → s.ilen.toNat ≤ s.cfg.pIbufBytes → ∀ key, key = (List.range s.ilen.toNat).map s.ibufByte →
      (∀ (pre post : List Chunk) (c : Chunk), s.cs = pre ++ c :: post → (∀ x ∈ pre, Passes s.cfg.pNonUtf8Match key x) →
        (utf8 c.type = true → key = c.type.bytes →
          Completes .pngChunkByType s { s.record with cr := c, crv := true, res := 1 }) ∧
        (s.cfg.pNonUtf8Match = .fault → utf8 c.type = false →
          Raises .pngChunkByType s .typeNotText (BitVec.ofNat 32 pre.length))) ∧
      ((∀ x ∈ s.cs, Passes s.cfg.pNonUtf8Match key x) → Completes .pngChunkByType s { s.record with res := 0 }))

/-- R178 with R173: PNG_AS_BYTES. The invariant gives length = |data| for every chunk of CS (R49). -/
def Obligations.PngAsBytesResult : Prop :=
  encode .pngAsBytes = 0x00000044 ∧
  ∀ s : State, s.Inv → ∀ n, n = 8 + (s.cs.map fun c => 12 + c.length.toNat).sum →
    (s.csv = false → Raises .pngAsBytes s .noContainer 0) ∧
    (s.csv = true → s.cfg.pObufBytes < n → Raises .pngAsBytes s .capacityExceeded 0) ∧
    (s.csv = true → n ≤ s.cfg.pObufBytes →
      Delivers .pngAsBytes s n ([0x89, 0x50, 0x4E, 0x47, 0x0D, 0x0A, 0x1A, 0x0A] ++ (s.cs.map frame).flatten))

/-- R179, both directions: PNG_PARSE of the bytes of a container, then PNG_AS_BYTES, writes those bytes again; and whenever PNG_PARSE
succeeds, the container it leaves serializes to its input. -/
def Obligations.ContainerRoundTrip : Prop :=
  (∀ (s : State) (cs : List Chunk) (b : List Byte), s.cfg.wf = true → (∀ c ∈ cs, c.Consistent) → cs.length ≤ s.cfg.pMaxChunks →
    storedBytes cs ≤ s.cfg.pStoreBytes → b = containerBytes cs → b.length ≤ s.cfg.pIbufBytes → b.length ≤ s.cfg.pObufBytes →
    s.ilen.toNat = b.length → (∀ a < b.length, s.ibuf.read? a = b[a]?) →
    ∃ t u, exec .pngParse s = .next t ∧ t.err = 0 ∧ t.csv = true ∧ t.cs = cs ∧ exec .pngAsBytes t = .next u ∧ u.err = 0 ∧
      u.olen.toNat = b.length ∧ ∀ a < b.length, u.obuf.read? a = b[a]?) ∧
  ∀ s t : State, exec .pngParse s = .next t → t.err = 0 → containerBytes t.cs = (List.range s.ilen.toNat).map s.ibufByte

/-- R180: on a container that holds exactly one chunk of the key's type, a text, PNG_REMOVE puts that chunk in CR, and a following
PNG_CHUNK_BY_TYPE finds none. Under P_NONUTF8_MATCH = fault every type in the container must be text, for R172 stops the search at one that
is not. -/
def Obligations.RemoveThenLookupFindsNone : Prop :=
  ∀ (s : State) (pre post : List Chunk) (c : Chunk), s.csv = true → s.ilen.toNat ≤ s.cfg.pIbufBytes → s.cs = pre ++ c :: post →
    (∀ a < s.ilen.toNat, s.ibuf.read? a = c.type.bytes[a]?) → s.ilen = 4 → utf8 c.type = true →
    (s.cfg.pNonUtf8Match = .noMatch ∨ ∀ x ∈ s.cs, utf8 x.type = true) → (∀ x ∈ pre ++ post, x.type ≠ c.type) →
    ∃ t u, exec .pngRemove s = .next t ∧ t.err = 0 ∧ t.cr = c ∧ t.cs = pre ++ post ∧
      exec .pngChunkByType t = .next u ∧ u.err = 0 ∧ u.res = 0 ∧ u.cs = pre ++ post

/-- R181: append is concatenation of the serialized bytes. -/
def Obligations.AppendIsConcatenation : Prop :=
  ∀ s t : State, exec .pngAppend s = .next t → t.err = 0 → containerBytes t.cs = containerBytes s.cs ++ frame s.cr

/-- R172: a type of four ASCII bytes is text, so over such types the search does not depend on P_NONUTF8_MATCH; and a type is text exactly
when its bytes are a concatenation of rows of the table, so FF FF FF FF is not. -/
def Obligations.AsciiTypesAreText : Prop :=
  (∀ t : Quad, (∀ b ∈ t.bytes, b.toNat < 0x80) → utf8 t = true) ∧
  (∀ (c d : Config) (cs : List Chunk) (key : List Byte), (∀ x ∈ cs, ∀ b ∈ x.type.bytes, b.toNat < 0x80) →
    findFirst c cs key = findFirst d cs key) ∧
  (∀ t : Quad, utf8 t = true ↔ ∃ pieces : List (List Byte), pieces.flatten = t.bytes ∧
    ∀ p ∈ pieces, ∃ form ∈ utf8Forms, p.length = form.length ∧ ∀ x ∈ p.zip form, x.2.1 ≤ x.1 ∧ x.1 ≤ x.2.2) ∧
  utf8 ⟨0xFF, 0xFF, 0xFF, 0xFF⟩ = false

/-! ## The host's side -/

/-- R33: the STATUS layout; every bit not listed reads 0. -/
def Obligations.StatusLayout : Prop :=
  ∀ s : State,
    s.statusWord.extractLsb' 0 4 = s.err ∧ s.statusWord.extractLsb' 4 4 = 0 ∧ s.statusWord.getLsbD 8 = s.trv ∧
    s.statusWord.getLsbD 9 = s.crv ∧ s.statusWord.getLsbD 10 = s.csv ∧ s.statusWord.extractLsb' 11 4 = 0 ∧
    s.statusWord.getLsbD 15 = s.esticky ∧ s.statusWord.getLsbD 16 = s.pending.isSome ∧ s.statusWord.extractLsb' 17 15 = 0

/-- R31, R45, R46: what each offset of the REG space reads, that every one reads 0 after power-on, and that a write to a read-only
register or a reserved offset is ignored. -/
def Obligations.HostRegisterMap : Prop :=
  (∀ (s : State) (off : Nat), off % 4 = 0 → off < 0x100 →
    hostRead ⟨.reg, s.cfg.pBase + off, 32⟩ s = .ok
      (if off = 0x04 then s.statusWord else if off = 0x08 then s.arg else if off = 0x0C then s.res else if off = 0x10 then s.ilen
       else if off = 0x14 then s.olen else if off = 0x18 then s.eaddr
       else if off = 0x1C then (if s.csv then BitVec.ofNat 32 s.cs.length else 0) else 0)) ∧
  (∀ (s : State) (off : Nat) (v : Word), off % 4 = 0 → off < 0x100 → off ≠ 0x00 → off ≠ 0x08 → off ≠ 0x10 →
    hostWrite ⟨.reg, s.cfg.pBase + off, 32⟩ v s = .ok s) ∧
  (∀ (s : State) (v : Word), s.pending = none →
    hostWrite ⟨.reg, s.cfg.pBase, 32⟩ v s = .ok { s with pending := some v } ∧
    hostWrite ⟨.reg, s.cfg.pBase + 0x08, 32⟩ v s = .ok { s with arg := v } ∧
    hostWrite ⟨.reg, s.cfg.pBase + 0x10, 32⟩ v s = .ok { s with ilen := v }) ∧
  ∀ (cfg : Config) (off : Nat), off % 4 = 0 → off < 0x100 →
    hostRead ⟨.reg, cfg.pBase + off, 32⟩ (State.powerOn cfg) = .ok 0

/-- R68, R240: the host accesses inside the contract, exactly; every other is refused. -/
def Obligations.HostAccessContract : Prop :=
  ∀ (s : State) (a : Access),
    ((∃ w, hostRead a s = .ok w) ↔
      (a.space = .reg ∧ a.bits = 32 ∧ s.cfg.pBase ≤ a.addr ∧ a.addr < s.cfg.pBase + 0x100 ∧ (a.addr - s.cfg.pBase) % 4 = 0) ∨
      (a.space = .ibuf ∧ a.bits = 8 ∧ a.addr < s.cfg.pIbufBytes) ∨ (a.space = .obuf ∧ a.bits = 8 ∧ a.addr < s.cfg.pObufBytes)) ∧
    ∀ v : Word, (∃ t, hostWrite a v s = .ok t) ↔
      (a.space = .reg ∧ a.bits = 32 ∧ s.cfg.pBase ≤ a.addr ∧ a.addr < s.cfg.pBase + 0x100 ∧ (a.addr - s.cfg.pBase) % 4 = 0 ∧
        (s.busy = true → a.addr ≠ s.cfg.pBase ∧ a.addr ≠ s.cfg.pBase + 0x08 ∧ a.addr ≠ s.cfg.pBase + 0x10)) ∨
      (a.space = .ibuf ∧ a.bits = 8 ∧ a.addr < s.cfg.pIbufBytes ∧ s.busy = false)

/-- R69, R71: a byte the host writes to IBUF is the byte a command and the host read there, no other byte and no other part of the record
changes, and writing it again changes nothing. -/
def Obligations.HostByteWriteIsRead : Prop :=
  ∀ (s t : State) (a : Nat) (v : Word), hostWrite (ibufAccess a) v s = .ok t →
    (∀ x, t.ibufByte x = if x = a then v.setWidth 8 else s.ibufByte x) ∧
    { t.record with ibuf := s.ibuf } = s.record ∧ hostRead (ibufAccess a) t = .ok ((v.setWidth 8).setWidth 32) ∧
    hostWrite (ibufAccess a) v t = .ok t

/-- R31, R39, R240: a step of the host changes nothing of the record but CMD's pending word, ARG, ILEN and IBUF cells, and nothing at all
of it while BUSY = 1. -/
def Obligations.HostStepsChangeOnlyWhatTheHostMayWrite : Prop :=
  ∀ s t : State, s.turn = .host → step s = .next t →
    { t.record with pending := s.pending, arg := s.arg, ilen := s.ilen, ibuf := s.ibuf } = s.record ∧
    (s.busy = true → t.record = s.record) ∧ t.cfg = s.cfg ∧ t.draws = s.draws

/-- R32, R86, R87: a host program line that is a mnemonic writes the command word to CMD and waits: with no schedule given, four steps
later the command has been performed, the poll has read STATUS with BUSY = 0, and the host stands at its next line. (Which agent moves
when is the model's choice, log entry 6.) -/
def Obligations.IssuedCommandIsPerformedAndAwaited : Prop :=
  ∀ (s : State) (i : Instr), s.sched = [] → s.pending = none → s.host.failed = false → s.host.todo = [] →
    s.host.prog[s.host.line]? = some (.command i) →
    ∃ t u, exec i { s with
        pending := some (encode i),
        host := { s.host with line := s.host.line + 1, todo := [.poll], reads := s.host.reads + 1 } } = .next t ∧
      Sys2Proof.core.run 4 s = .next u ∧ u.record = t.record ∧ u.host.todo = [] ∧ u.host.line = s.host.line + 1 ∧
      lookupVar u.host.vars statusVar = some (.num u.statusWord.toNat) ∧ u.busy = false

/-- R246: an accepted command word is performed, once the turns scheduled before the block's (log entry 6) are over: after at most as
many steps as the schedule is long, the run stands with that word still pending, at a step that performs it (and clears BUSY) or at a
power-on reset that discards it (R230), unless the host first makes a move outside its contract, which is refused. Which agent moves when
is the model's choice (log entry 6). -/
def Obligations.AcceptedCommandIsPerformed : Prop :=
  ∀ (s : State) (w : Word), s.pending = some w →
    ∃ k ≤ s.sched.length,
      (∃ t u : State, Sys2Proof.core.run k s = .next t ∧ t.pending = some w ∧ step t = .next u ∧ u.pending = none ∧
        (t.turn = .powerOn ∨ (t.turn = .block ∧ perform w { t with sched := t.sched.tail } = .next u))) ∨
      (∃ r : Refusal, Sys2Proof.core.run (k + 1) s = .refused r ∧ ∀ m, r ≠ .notModelled m)

/-- R50, R55, R207: nothing a step does depends on the bytes of TR while TRV = 0, of CR while CRV = 0, or on CRCR: two states that differ
only there step alike, to states that differ only there. -/
def Obligations.UnreadableRegistersDoNotInterfere : Prop :=
  ∀ s s' : State, s.SameReadable s' →
    (∀ t, step s = .next t → ∃ t', step s' = .next t' ∧ t.SameReadable t') ∧
    ∀ r, step s = .refused r → step s' = .refused r

/-- R86, R87: every line of the host's program is read in one step, whatever its operands hold, and reading it changes nothing of the
record. What is left are the accesses the line stands for: each byte of `wrb` in order, of `rdb` in order, and the expansions of `load`,
`settype`, `settype_raw`, a mnemonic and `check`; `beq` and `bne` compare numbers and bytes. (One step for a line is the model's choice,
log entry 7.) -/
def Obligations.HostLinesStandForTheirAccesses : Prop :=
  ∀ (s : State) (l : HostLine), s.turn = .host → s.host.failed = false → s.host.todo = [] → s.host.prog[s.host.line]? = some l →
    ∃ t, step s = .next t ∧ t.record = s.record ∧ t.cfg = s.cfg ∧ t.host.prog = s.host.prog ∧
      (∀ (r : HostReg) (v : Nat), l = .wr r (.lit v) → v < 2 ^ 32 → t.host.todo = [.write (regAccess s.cfg r) (BitVec.ofNat 32 v)]) ∧
      (∀ (r : HostReg) (x : HostVar), l = .rd r x → t.host.todo = [.read (regAccess s.cfg r) x]) ∧
      (∀ (a : Nat) (bs : List Byte) (x : HostTerm), l = .wrb (.lit a) x →
        (x = .bytes bs ∨ ∃ v, x = .var v ∧ lookupVar s.host.vars v = some (.bytes bs)) →
        t.host.todo = (List.range bs.length).map fun k => .write (ibufAccess (a + k)) ((bs.getD k 0).setWidth 32)) ∧
      (∀ (a n : Nat) (x : HostVar), l = .rdb (.lit a) (.lit n) x →
        lookupVar t.host.vars x = some (.bytes []) ∧ t.host.todo = (List.range n).map fun k => .readByte (obufAccess (a + k)) x) ∧
      (∀ i : Instr, l = .command i → t.host.todo = [.write (regAccess s.cfg .cmd) (encode i), .poll]) ∧
      (∀ bs : List Byte, bs.length < 2 ^ 32 → (l = .load (.bytes bs) ∨ l = .settype (.bytes bs)) →
        t.host.todo = ((List.range bs.length).map fun k => .write (ibufAccess k) ((bs.getD k 0).setWidth 32)) ++
          [.write (regAccess s.cfg .ilen) (BitVec.ofNat 32 bs.length)] ++
          (if l = .settype (.bytes bs) then [.write (regAccess s.cfg .cmd) 0x00000011, .poll] else [])) ∧
      (∀ v : Nat, l = .settypeRaw (.lit v) → v < 2 ^ 32 → t.host.todo =
        [.write (regAccess s.cfg .arg) (BitVec.ofNat 32 v), .write (regAccess s.cfg .cmd) 0x00000010, .poll]) ∧
      (l = .check → t.host.todo = [.read (regAccess s.cfg .status) statusVar, .test]) ∧
      ∀ (x y : HostVar) (v w : HostVal) (k : HostLabel) (i : Nat), lookupVar s.host.vars x = some v → lookupVar s.host.vars y = some w →
        ((∃ a b, v = .num a ∧ w = .num b) ∨ ∃ a b, v = .bytes a ∧ w = .bytes b) → labelLines k 0 s.host.prog = [i] →
        (l = .beq (.var x) (.var y) k → t.host.line = if v = w then i else s.host.line + 1) ∧
        (l = .bne (.var x) (.var y) k → t.host.line = if v = w then s.host.line + 1 else i)
end

