-- ==== Sys2Proof/Laws/State.lean ====
section
/-! SUPPORT. One lemma per field for each shared operation on State (`ended`, `complete`, `raise`, `endTurn`, `powerOnReset`, `withPending`),
each true by rfl, and what `complete` and `raise` do to the record of R30. -/

namespace Sys2Proof.Machine

/-! `State.ended` -/

@[simp] theorem State.ended_pending (s : State) : (s.ended).pending = none := rfl
@[simp] theorem State.ended_err (s : State) : (s.ended).err = s.err := rfl
@[simp] theorem State.ended_trv (s : State) : (s.ended).trv = s.trv := rfl
@[simp] theorem State.ended_crv (s : State) : (s.ended).crv = s.crv := rfl
@[simp] theorem State.ended_csv (s : State) : (s.ended).csv = s.csv := rfl
@[simp] theorem State.ended_esticky (s : State) : (s.ended).esticky = s.esticky := rfl
@[simp] theorem State.ended_arg (s : State) : (s.ended).arg = s.arg := rfl
@[simp] theorem State.ended_res (s : State) : (s.ended).res = s.res := rfl
@[simp] theorem State.ended_ilen (s : State) : (s.ended).ilen = s.ilen := rfl
@[simp] theorem State.ended_olen (s : State) : (s.ended).olen = s.olen := rfl
@[simp] theorem State.ended_eaddr (s : State) : (s.ended).eaddr = s.eaddr := rfl
@[simp] theorem State.ended_tr (s : State) : (s.ended).tr = s.tr := rfl
@[simp] theorem State.ended_cr (s : State) : (s.ended).cr = s.cr := rfl
@[simp] theorem State.ended_cs (s : State) : (s.ended).cs = s.cs := rfl
@[simp] theorem State.ended_ibuf (s : State) : (s.ended).ibuf = s.ibuf := rfl
@[simp] theorem State.ended_obuf (s : State) : (s.ended).obuf = s.obuf := rfl
@[simp] theorem State.ended_crcr (s : State) : (s.ended).crcr = Config.freeCrcr s.draws := rfl
@[simp] theorem State.ended_cfg (s : State) : (s.ended).cfg = s.cfg := rfl
@[simp] theorem State.ended_draws (s : State) : (s.ended).draws = s.draws + 1 := rfl
@[simp] theorem State.ended_host (s : State) : (s.ended).host = s.host := rfl
@[simp] theorem State.ended_sched (s : State) : (s.ended).sched = s.sched := rfl

/-! `complete` -/

@[simp] theorem complete_pending (s : State) : (complete s).pending = none := rfl
@[simp] theorem complete_err (s : State) : (complete s).err = 0 := rfl
@[simp] theorem complete_trv (s : State) : (complete s).trv = s.trv := rfl
@[simp] theorem complete_crv (s : State) : (complete s).crv = s.crv := rfl
@[simp] theorem complete_csv (s : State) : (complete s).csv = s.csv := rfl
@[simp] theorem complete_esticky (s : State) : (complete s).esticky = s.esticky := rfl
@[simp] theorem complete_arg (s : State) : (complete s).arg = s.arg := rfl
@[simp] theorem complete_res (s : State) : (complete s).res = s.res := rfl
@[simp] theorem complete_ilen (s : State) : (complete s).ilen = s.ilen := rfl
@[simp] theorem complete_olen (s : State) : (complete s).olen = s.olen := rfl
@[simp] theorem complete_eaddr (s : State) : (complete s).eaddr = s.eaddr := rfl
@[simp] theorem complete_tr (s : State) : (complete s).tr = s.tr := rfl
@[simp] theorem complete_cr (s : State) : (complete s).cr = s.cr := rfl
@[simp] theorem complete_cs (s : State) : (complete s).cs = s.cs := rfl
@[simp] theorem complete_ibuf (s : State) : (complete s).ibuf = s.ibuf := rfl
@[simp] theorem complete_obuf (s : State) : (complete s).obuf = s.obuf := rfl
@[simp] theorem complete_crcr (s : State) : (complete s).crcr = Config.freeCrcr s.draws := rfl
@[simp] theorem complete_cfg (s : State) : (complete s).cfg = s.cfg := rfl
@[simp] theorem complete_draws (s : State) : (complete s).draws = s.draws + 1 := rfl
@[simp] theorem complete_host (s : State) : (complete s).host = s.host := rfl
@[simp] theorem complete_sched (s : State) : (complete s).sched = s.sched := rfl

/-! `raise` -/

@[simp] theorem raise_pending (e : ErrKind) (info : Word) (s : State) : (raise e info s).pending = none := rfl
@[simp] theorem raise_err (e : ErrKind) (info : Word) (s : State) : (raise e info s).err = e.code := rfl
@[simp] theorem raise_trv (e : ErrKind) (info : Word) (s : State) : (raise e info s).trv = s.trv := rfl
@[simp] theorem raise_crv (e : ErrKind) (info : Word) (s : State) : (raise e info s).crv = s.crv := rfl
@[simp] theorem raise_csv (e : ErrKind) (info : Word) (s : State) : (raise e info s).csv = s.csv := rfl
@[simp] theorem raise_esticky (e : ErrKind) (info : Word) (s : State) : (raise e info s).esticky = true := rfl
@[simp] theorem raise_arg (e : ErrKind) (info : Word) (s : State) : (raise e info s).arg = s.arg := rfl
@[simp] theorem raise_res (e : ErrKind) (info : Word) (s : State) : (raise e info s).res = s.res := rfl
@[simp] theorem raise_ilen (e : ErrKind) (info : Word) (s : State) : (raise e info s).ilen = s.ilen := rfl
@[simp] theorem raise_olen (e : ErrKind) (info : Word) (s : State) : (raise e info s).olen = s.olen := rfl
@[simp] theorem raise_eaddr (e : ErrKind) (info : Word) (s : State) : (raise e info s).eaddr = info := rfl
@[simp] theorem raise_tr (e : ErrKind) (info : Word) (s : State) : (raise e info s).tr = s.tr := rfl
@[simp] theorem raise_cr (e : ErrKind) (info : Word) (s : State) : (raise e info s).cr = s.cr := rfl
@[simp] theorem raise_cs (e : ErrKind) (info : Word) (s : State) : (raise e info s).cs = s.cs := rfl
@[simp] theorem raise_ibuf (e : ErrKind) (info : Word) (s : State) : (raise e info s).ibuf = s.ibuf := rfl
@[simp] theorem raise_obuf (e : ErrKind) (info : Word) (s : State) : (raise e info s).obuf = s.obuf := rfl
@[simp] theorem raise_crcr (e : ErrKind) (info : Word) (s : State) : (raise e info s).crcr = Config.freeCrcr s.draws := rfl
@[simp] theorem raise_cfg (e : ErrKind) (info : Word) (s : State) : (raise e info s).cfg = s.cfg := rfl
@[simp] theorem raise_draws (e : ErrKind) (info : Word) (s : State) : (raise e info s).draws = s.draws + 1 := rfl
@[simp] theorem raise_host (e : ErrKind) (info : Word) (s : State) : (raise e info s).host = s.host := rfl
@[simp] theorem raise_sched (e : ErrKind) (info : Word) (s : State) : (raise e info s).sched = s.sched := rfl

/-- R200, R34: every error code is nonzero and at most 11. -/
theorem ErrKind.code_range (e : ErrKind) : 1 ≤ e.code.toNat ∧ e.code.toNat ≤ 11 := by cases e <;> decide

/-- R203: after an error ERR is not 0. -/
theorem raise_err_ne_zero (e : ErrKind) (info : Word) (s : State) : (raise e info s).err ≠ 0 := by
  have h : e.code ≠ 0 := by cases e <;> decide
  exact h

/-! `State.endTurn` -/

@[simp] theorem State.endTurn_pending (s : State) : (s.endTurn).pending = s.pending := rfl
@[simp] theorem State.endTurn_err (s : State) : (s.endTurn).err = s.err := rfl
@[simp] theorem State.endTurn_trv (s : State) : (s.endTurn).trv = s.trv := rfl
@[simp] theorem State.endTurn_crv (s : State) : (s.endTurn).crv = s.crv := rfl
@[simp] theorem State.endTurn_csv (s : State) : (s.endTurn).csv = s.csv := rfl
@[simp] theorem State.endTurn_esticky (s : State) : (s.endTurn).esticky = s.esticky := rfl
@[simp] theorem State.endTurn_arg (s : State) : (s.endTurn).arg = s.arg := rfl
@[simp] theorem State.endTurn_res (s : State) : (s.endTurn).res = s.res := rfl
@[simp] theorem State.endTurn_ilen (s : State) : (s.endTurn).ilen = s.ilen := rfl
@[simp] theorem State.endTurn_olen (s : State) : (s.endTurn).olen = s.olen := rfl
@[simp] theorem State.endTurn_eaddr (s : State) : (s.endTurn).eaddr = s.eaddr := rfl
@[simp] theorem State.endTurn_tr (s : State) : (s.endTurn).tr = s.tr := rfl
@[simp] theorem State.endTurn_cr (s : State) : (s.endTurn).cr = s.cr := rfl
@[simp] theorem State.endTurn_cs (s : State) : (s.endTurn).cs = s.cs := rfl
@[simp] theorem State.endTurn_ibuf (s : State) : (s.endTurn).ibuf = s.ibuf := rfl
@[simp] theorem State.endTurn_obuf (s : State) : (s.endTurn).obuf = s.obuf := rfl
@[simp] theorem State.endTurn_crcr (s : State) : (s.endTurn).crcr = s.crcr := rfl
@[simp] theorem State.endTurn_cfg (s : State) : (s.endTurn).cfg = s.cfg := rfl
@[simp] theorem State.endTurn_draws (s : State) : (s.endTurn).draws = s.draws := rfl
@[simp] theorem State.endTurn_host (s : State) : (s.endTurn).host = s.host := rfl
@[simp] theorem State.endTurn_sched (s : State) : (s.endTurn).sched = s.sched.tail := rfl

/-- Past the end of the schedule the turn moves nothing on. -/
theorem State.endTurn_of_sched_nil {s : State} (h : s.sched = []) : s.endTurn = s := by
  cases s; cases h; rfl

/-! `State.powerOnReset` -/

@[simp] theorem State.powerOnReset_pending (s : State) : (s.powerOnReset).pending = (State.powerOn s.cfg).pending := rfl
@[simp] theorem State.powerOnReset_err (s : State) : (s.powerOnReset).err = (State.powerOn s.cfg).err := rfl
@[simp] theorem State.powerOnReset_trv (s : State) : (s.powerOnReset).trv = (State.powerOn s.cfg).trv := rfl
@[simp] theorem State.powerOnReset_crv (s : State) : (s.powerOnReset).crv = (State.powerOn s.cfg).crv := rfl
@[simp] theorem State.powerOnReset_csv (s : State) : (s.powerOnReset).csv = (State.powerOn s.cfg).csv := rfl
@[simp] theorem State.powerOnReset_esticky (s : State) : (s.powerOnReset).esticky = (State.powerOn s.cfg).esticky := rfl
@[simp] theorem State.powerOnReset_arg (s : State) : (s.powerOnReset).arg = (State.powerOn s.cfg).arg := rfl
@[simp] theorem State.powerOnReset_res (s : State) : (s.powerOnReset).res = (State.powerOn s.cfg).res := rfl
@[simp] theorem State.powerOnReset_ilen (s : State) : (s.powerOnReset).ilen = (State.powerOn s.cfg).ilen := rfl
@[simp] theorem State.powerOnReset_olen (s : State) : (s.powerOnReset).olen = (State.powerOn s.cfg).olen := rfl
@[simp] theorem State.powerOnReset_eaddr (s : State) : (s.powerOnReset).eaddr = (State.powerOn s.cfg).eaddr := rfl
@[simp] theorem State.powerOnReset_tr (s : State) : (s.powerOnReset).tr = (State.powerOn s.cfg).tr := rfl
@[simp] theorem State.powerOnReset_cr (s : State) : (s.powerOnReset).cr = (State.powerOn s.cfg).cr := rfl
@[simp] theorem State.powerOnReset_cs (s : State) : (s.powerOnReset).cs = (State.powerOn s.cfg).cs := rfl
@[simp] theorem State.powerOnReset_ibuf (s : State) : (s.powerOnReset).ibuf = (State.powerOn s.cfg).ibuf := rfl
@[simp] theorem State.powerOnReset_obuf (s : State) : (s.powerOnReset).obuf = (State.powerOn s.cfg).obuf := rfl
@[simp] theorem State.powerOnReset_crcr (s : State) : (s.powerOnReset).crcr = (State.powerOn s.cfg).crcr := rfl
@[simp] theorem State.powerOnReset_cfg (s : State) : (s.powerOnReset).cfg = s.cfg := rfl
@[simp] theorem State.powerOnReset_draws (s : State) : (s.powerOnReset).draws = s.draws + 1 := rfl
@[simp] theorem State.powerOnReset_host (s : State) : (s.powerOnReset).host = s.host := rfl
@[simp] theorem State.powerOnReset_sched (s : State) : (s.powerOnReset).sched = s.sched := rfl

/-! `withPending` -/

@[simp] theorem State.withPending_pending (s : State) (w : Word) : (s.withPending w).pending = some w := rfl
@[simp] theorem State.withPending_err (s : State) (w : Word) : (s.withPending w).err = s.err := rfl
@[simp] theorem State.withPending_trv (s : State) (w : Word) : (s.withPending w).trv = s.trv := rfl
@[simp] theorem State.withPending_crv (s : State) (w : Word) : (s.withPending w).crv = s.crv := rfl
@[simp] theorem State.withPending_csv (s : State) (w : Word) : (s.withPending w).csv = s.csv := rfl
@[simp] theorem State.withPending_esticky (s : State) (w : Word) : (s.withPending w).esticky = s.esticky := rfl
@[simp] theorem State.withPending_arg (s : State) (w : Word) : (s.withPending w).arg = s.arg := rfl
@[simp] theorem State.withPending_res (s : State) (w : Word) : (s.withPending w).res = s.res := rfl
@[simp] theorem State.withPending_ilen (s : State) (w : Word) : (s.withPending w).ilen = s.ilen := rfl
@[simp] theorem State.withPending_olen (s : State) (w : Word) : (s.withPending w).olen = s.olen := rfl
@[simp] theorem State.withPending_eaddr (s : State) (w : Word) : (s.withPending w).eaddr = s.eaddr := rfl
@[simp] theorem State.withPending_tr (s : State) (w : Word) : (s.withPending w).tr = s.tr := rfl
@[simp] theorem State.withPending_cr (s : State) (w : Word) : (s.withPending w).cr = s.cr := rfl
@[simp] theorem State.withPending_cs (s : State) (w : Word) : (s.withPending w).cs = s.cs := rfl
@[simp] theorem State.withPending_ibuf (s : State) (w : Word) : (s.withPending w).ibuf = s.ibuf := rfl
@[simp] theorem State.withPending_obuf (s : State) (w : Word) : (s.withPending w).obuf = s.obuf := rfl
@[simp] theorem State.withPending_crcr (s : State) (w : Word) : (s.withPending w).crcr = s.crcr := rfl
@[simp] theorem State.withPending_cfg (s : State) (w : Word) : (s.withPending w).cfg = s.cfg := rfl
@[simp] theorem State.withPending_draws (s : State) (w : Word) : (s.withPending w).draws = s.draws := rfl
@[simp] theorem State.withPending_host (s : State) (w : Word) : (s.withPending w).host = s.host := rfl
@[simp] theorem State.withPending_sched (s : State) (w : Word) : (s.withPending w).sched = .block :: s.sched := rfl

/-! The record of R30 -/

/-- R204: what `complete` leaves of the record. -/
@[simp] theorem complete_record (s : State) : (complete s).record = s.record.completed := rfl

/-- R203: what `raise` leaves of the record. -/
@[simp] theorem raise_record (e : ErrKind) (info : Word) (s : State) : (raise e info s).record = s.record.raised e info := rfl

@[simp] theorem State.endTurn_record (s : State) : s.endTurn.record = s.record := rfl

end Sys2Proof.Machine
end

