-- ==== Sys2Proof/Laws/Memory.lean ====
section
/-! SUPPORT. The laws of the buffer cells: a write is read back and leaves every other cell alone, every operation keeps the canonical
form, and two canonical memories that read alike are equal. -/

namespace Sys2Proof.Machine

@[simp] theorem Memory.read?_nil (a : Nat) : Memory.read? [] a = none := rfl

theorem Memory.read?_cons (x : Nat) (y : Byte) (m : Memory) (a : Nat) :
    Memory.read? ((x, y) :: m) a = if a = x then some y else Memory.read? m a := rfl

@[simp] theorem Memory.write_nil (a : Nat) (b : Byte) : Memory.write [] a b = [(a, b)] := rfl

theorem Memory.write_cons (x : Nat) (y : Byte) (m : Memory) (a : Nat) (b : Byte) :
    Memory.write ((x, y) :: m) a b =
      if a < x then (a, b) :: (x, y) :: m else if a = x then (a, b) :: m else (x, y) :: Memory.write m a b := rfl

/-- Writing the same byte again changes nothing. -/
theorem Memory.write_write (m : Memory) (a : Nat) (b : Byte) : (m.write a b).write a b = m.write a b := by
  induction m with
  | nil => simp [Memory.write_cons]
  | cons c m ih =>
    obtain ⟨x, y⟩ := c
    rw [Memory.write_cons]
    split
    case isTrue => simp [Memory.write_cons]
    case isFalse h =>
      split
      case isTrue => simp [Memory.write_cons]
      case isFalse h2 => rw [Memory.write_cons, if_neg h, if_neg h2, ih]

/-- A cell that reads as written is listed. -/
theorem Memory.mem_of_read? {m : Memory} {a : Nat} {b : Byte} (h : m.read? a = some b) : (a, b) ∈ m := by
  induction m with
  | nil => simp at h
  | cons c m ih =>
    obtain ⟨x, y⟩ := c
    rw [Memory.read?_cons] at h
    split at h
    case isTrue hx => simp_all
    case isFalse => exact List.mem_cons_of_mem _ (ih h)

/-- Below every listed offset nothing is written. -/
theorem Memory.read?_of_lt {m : Memory} {a : Nat} (h : ∀ c ∈ m, a < c.1) : m.read? a = none := by
  induction m with
  | nil => rfl
  | cons c m ih =>
    obtain ⟨x, y⟩ := c
    have hx : a < x := h (x, y) List.mem_cons_self
    rw [Memory.read?_cons, if_neg (by omega)]
    exact ih fun c hc => h c (List.mem_cons_of_mem _ hc)

/-- R63, R62: a write sets its own cell and no other. -/
theorem Memory.read?_write (m : Memory) (a : Nat) (b : Byte) (x : Nat) :
    (m.write a b).read? x = if x = a then some b else m.read? x := by
  induction m with
  | nil => rfl
  | cons c m ih =>
    obtain ⟨u, v⟩ := c
    unfold Memory.write
    split
    case isTrue => rfl
    case isFalse hlt =>
      split
      case isTrue hau =>
        subst hau
        simp only [Memory.read?_cons]
        split <;> rfl
      case isFalse hne =>
        simp only [Memory.read?_cons, ih]
        split
        case isTrue hxu => rw [if_neg (by omega)]
        case isFalse => rfl

/-- The offsets a write lists: its own, and those listed before. -/
theorem Memory.mem_write {m : Memory} {a : Nat} {b : Byte} {c : Host.Cell} (h : c ∈ m.write a b) : c = (a, b) ∨ c ∈ m := by
  induction m with
  | nil => simpa [Memory.write] using h
  | cons d m ih =>
    obtain ⟨u, v⟩ := d
    unfold Memory.write at h
    split at h
    case isTrue => simpa using h
    case isFalse =>
      split at h
      case isTrue => rcases List.mem_cons.1 h with h | h <;> simp [h]
      case isFalse =>
        rcases List.mem_cons.1 h with h | h
        · simp [h]
        · rcases ih h with h | h <;> simp [h]

/-- A write keeps the canonical form. -/
theorem Memory.write_wf {m : Memory} (h : m.wf) (a : Nat) (b : Byte) : (m.write a b).wf := by
  induction m with
  | nil => exact List.pairwise_singleton _ _
  | cons c m ih =>
    obtain ⟨u, v⟩ := c
    have hu := (List.pairwise_cons.1 h).1
    have hm := (List.pairwise_cons.1 h).2
    unfold Memory.write
    split
    case isTrue hlt =>
      refine List.pairwise_cons.2 ⟨fun c hc => ?_, h⟩
      rcases List.mem_cons.1 hc with rfl | hc
      · exact hlt
      · exact Nat.lt_trans hlt (hu c hc)
    case isFalse hlt =>
      split
      case isTrue hau =>
        subst hau
        exact List.pairwise_cons.2 ⟨hu, hm⟩
      case isFalse hne =>
        refine List.pairwise_cons.2 ⟨fun c hc => ?_, ih hm⟩
        rcases Memory.mem_write hc with rfl | hc
        · simp only; omega
        · exact hu c hc

/-- `MemWrite` keeps the canonical form. -/
theorem Memory.writeBytes_wf {m : Memory} (h : m.wf) (a : Nat) (s : List Byte) : (m.writeBytes a s).wf := by
  induction s generalizing m a with
  | nil => exact h
  | cons b s ih => exact ih (Memory.write_wf h a b) (a + 1)

/-- R14, R63: what `MemWrite` leaves in each cell. -/
theorem Memory.read?_writeBytes (m : Memory) (a : Nat) (s : List Byte) (x : Nat) :
    (m.writeBytes a s).read? x = if a ≤ x ∧ x < a + s.length then s[x - a]? else m.read? x := by
  induction s generalizing m a with
  | nil => simp [Memory.writeBytes]
  | cons b s ih =>
    rw [Memory.writeBytes, ih, Memory.read?_write]
    by_cases h : a + 1 ≤ x ∧ x < a + 1 + s.length
    · obtain ⟨k, rfl⟩ : ∃ k, x = a + 1 + k := ⟨x - (a + 1), by omega⟩
      have h1 : a + 1 + k - a = k + 1 := by omega
      have h2 : a + 1 + k - (a + 1) = k := by omega
      rw [if_pos h, if_pos (by simp only [List.length_cons]; omega), h1, h2, List.getElem?_cons_succ]
    · rw [if_neg h]
      by_cases hx : x = a
      · subst hx
        rw [if_pos rfl, if_pos (by simp), Nat.sub_self, List.getElem?_cons_zero]
      · rw [if_neg hx, if_neg (by simp only [List.length_cons]; omega)]

/-- The offsets `MemWrite` lists: those it writes, and those listed before. -/
theorem Memory.mem_writeBytes {m : Memory} {a : Nat} {s : List Byte} {c : Host.Cell} (h : c ∈ m.writeBytes a s) :
    c.1 < a + s.length ∨ c ∈ m := by
  induction s generalizing m a with
  | nil => exact .inr h
  | cons b s ih =>
    rcases ih h with h | h
    · left; simp only [List.length_cons]; omega
    · rcases Memory.mem_write h with rfl | h
      · left; simp
      · exact .inr h

/-- Canonical memories that read alike are equal data. -/
theorem Memory.eq_of_read? {m n : Memory} (hm : m.wf) (hn : n.wf) (h : ∀ a, m.read? a = n.read? a) : m = n := by
  induction m generalizing n with
  | nil =>
    cases n with
    | nil => rfl
    | cons c n =>
      obtain ⟨u, v⟩ := c
      have := h u
      simp [Memory.read?_cons] at this
  | cons c m ih =>
    obtain ⟨x, y⟩ := c
    cases n with
    | nil =>
      have := h x
      simp [Memory.read?_cons] at this
    | cons d n =>
      obtain ⟨u, v⟩ := d
      have hxm := (List.pairwise_cons.1 hm).1
      have hun := (List.pairwise_cons.1 hn).1
      have hxu : x = u := by
        rcases Nat.lt_trichotomy x u with hlt | heq | hgt
        · have hx := h x
          rw [Memory.read?_cons, if_pos rfl, Memory.read?_of_lt] at hx
          · cases hx
          · intro c hc
            rcases List.mem_cons.1 hc with rfl | hc
            · exact hlt
            · exact Nat.lt_trans hlt (hun c hc)
        · exact heq
        · have hu := h u
          rw [Memory.read?_cons (x := u), if_pos rfl, Memory.read?_of_lt] at hu
          · cases hu
          · intro c hc
            rcases List.mem_cons.1 hc with rfl | hc
            · exact hgt
            · exact Nat.lt_trans hgt (hxm c hc)
      subst hxu
      have hyv : y = v := by
        have := h x
        simpa [Memory.read?_cons] using this
      subst hyv
      refine congrArg _ (ih (List.pairwise_cons.1 hm).2 (List.pairwise_cons.1 hn).2 fun a => ?_)
      by_cases hax : a = x
      · subst hax
        rw [Memory.read?_of_lt hxm, Memory.read?_of_lt hun]
      · have := h a
        rwa [Memory.read?_cons, Memory.read?_cons, if_neg hax, if_neg hax] at this

/-- Reset memory is canonical. -/
theorem powerOn_memory_wf (cfg : Config) : (State.powerOn cfg).ibuf.wf ∧ (State.powerOn cfg).obuf.wf :=
  ⟨List.Pairwise.nil, List.Pairwise.nil⟩

end Sys2Proof.Machine
end

