-- ==== Sys2Proof/Laws/Operands.lean ====
section
/-! SUPPORT. What each shared operation can do, said once: the prerequisites of R202, the output of R63, and the operand bytes of R85. -/

namespace Sys2Proof.Machine

/-- R35, R207: TR is read, or NoType is raised. -/
theorem needType_cases (s : State) (k : Quad → State) :
    (s.trv = true ∧ needType s k = k s.tr) ∨ (s.trv = false ∧ needType s k = raise .noType 0 s) := by
  unfold needType
  cases s.trv <;> simp

/-- R36, R207: CR is read, or NoChunk is raised. -/
theorem needChunk_cases (s : State) (k : Chunk → State) :
    (s.crv = true ∧ needChunk s k = k s.cr) ∨ (s.crv = false ∧ needChunk s k = raise .noChunk 0 s) := by
  unfold needChunk
  cases s.crv <;> simp

/-- R37, R207: CS is read, or NoContainer is raised. -/
theorem needContainer_cases (s : State) (k : List Chunk → State) :
    (s.csv = true ∧ needContainer s k = k s.cs) ∨ (s.csv = false ∧ needContainer s k = raise .noContainer 0 s) := by
  unfold needContainer
  cases s.csv <;> simp

/-- R42, R206 (a): the input is read, or CapacityExceeded is raised. -/
theorem needInput_cases (s : State) (k : List Byte → State) :
    (s.ilen.toNat ≤ s.cfg.pIbufBytes ∧ needInput s k = k s.input) ∨
      (s.cfg.pIbufBytes < s.ilen.toNat ∧ needInput s k = raise .capacityExceeded 0 s) := by
  unfold needInput
  split
  case isTrue h => exact .inr ⟨h, rfl⟩
  case isFalse h => exact .inl ⟨Nat.le_of_not_lt h, rfl⟩

/-- R206 (b), R63: the output is delivered, or CapacityExceeded is raised. -/
theorem deliver_cases (s : State) (n : Nat) (b : List Byte) :
    (n ≤ s.cfg.pObufBytes ∧ deliver s n b = complete { s with obuf := s.obuf.writeBytes 0 b, olen := BitVec.ofNat 32 n }) ∨
      (s.cfg.pObufBytes < n ∧ deliver s n b = raise .capacityExceeded 0 s) := by
  unfold deliver
  split
  case isTrue h => exact .inr ⟨h, rfl⟩
  case isFalse h => exact .inl ⟨Nat.le_of_not_lt h, rfl⟩

/-- R14: `MemRead(IBUF, a, n)` is n bytes. -/
@[simp] theorem State.memRead_length (s : State) (a n : Nat) : (s.memRead a n).length = n := by simp [State.memRead]

/-- R14: the byte at index k of `MemRead(IBUF, a, n)`. -/
theorem State.memRead_getElem? (s : State) (a n k : Nat) (h : k < n) : (s.memRead a n)[k]? = some (s.ibufByte (a + k)) := by
  simp [State.memRead, h]

/-- R85: the input is ILEN bytes. -/
@[simp] theorem State.input_length (s : State) : s.input.length = s.ilen.toNat := by simp [State.input]

/-- R56: a cell that is written reads as written, whatever the draw. -/
theorem State.ibufByte_of_read? {s : State} {a : Nat} {b : Byte} (h : s.ibuf.read? a = some b) : s.ibufByte a = b := by
  simp [State.ibufByte, h]

/-- The operand bytes depend on IBUF, ILEN and the draw number only. -/
theorem State.input_congr {s t : State} (hm : s.ibuf = t.ibuf) (hl : s.ilen = t.ilen) (hd : s.draws = t.draws) : s.input = t.input := by
  simp only [State.input, State.memRead, State.ibufByte, hm, hl, hd]

/-- R11: `s[i..j)` has j - i bytes. -/
theorem slice_length {s : List Byte} {i j : Nat} (h : j ≤ s.length) : (slice s i j).length = j - i := by
  simp only [slice, List.length_take, List.length_drop]; omega

/-- R11: four bytes. -/
@[simp] theorem Quad.bytes_length (q : Quad) : q.bytes.length = 4 := rfl

/-- Four bytes are their stream. -/
theorem Quad.bytes_inj {p q : Quad} (h : p.bytes = q.bytes) : p = q := by
  obtain ⟨a, b, c, d⟩ := p
  obtain ⟨e, f, g, i⟩ := q
  simpa [Quad.bytes] using h

/-- Four bytes read back from the front of a sequence. -/
@[simp] theorem quadAt_bytes_append (q : Quad) (s : List Byte) : quadAt (q.bytes ++ s) 0 = q := rfl

end Sys2Proof.Machine
end

