-- ==== Sys2Proof/Laws/Stream.lean ====
section
/-! SUPPORT. The CRC over a concatenation (R124), what a successful `parseChunk` consumes (R143), that the loop of PNG_PARSE never runs out
of fuel (R174: "the loop runs at most (n - 8) / 12 times"), and the sums of R206. -/

namespace Sys2Proof.Machine

/-- R122: updates run in sequence order. -/
theorem crcUpdates_append (r : Word) (s t : List Byte) : crcUpdates r (s ++ t) = crcUpdates (crcUpdates r s) t := by
  simp [crcUpdates]

/-- R124: the chunk checksum needs no re-init between type and data. -/
theorem chunkCrc_serial (t : Quad) (d : List Byte) :
    chunkCrc t d = crcFinal (crcUpdates (crcUpdates crcInit t.bytes) d) := by
  simp [chunkCrc, crc32, crcUpdates_append]

/-- R143: the three outcomes of `parseChunk`. -/
theorem parseChunk_cases (s : List Byte) :
    ((s.length < 12 ∨ s.length < 12 + (be32 (quadAt s 0)).toNat) ∧ parseChunk s = .truncated) ∨
    (12 + (be32 (quadAt s 0)).toNat ≤ s.length ∧
      (parseChunk s = .checksumMismatch ∨
        ∃ c, parseChunk s = .ok c (12 + (be32 (quadAt s 0)).toNat) ∧ c.length = be32 (quadAt s 0) ∧
          c.type = quadAt s 4 ∧ c.data = slice s 8 (8 + c.length.toNat) ∧ c.crc = be32 (quadAt s (8 + c.length.toNat)) ∧
          c.crc = chunkCrc c.type c.data)) := by
  unfold parseChunk
  split
  case isTrue h => exact .inl ⟨.inl h, rfl⟩
  case isFalse h =>
    simp only
    split
    case isTrue h2 => exact .inl ⟨.inr (by omega), rfl⟩
    case isFalse h2 =>
      refine .inr ⟨by omega, ?_⟩
      split
      case isTrue => exact .inl rfl
      case isFalse h3 => exact .inr ⟨_, rfl, rfl, rfl, rfl, rfl, (not_not.1 h3).symm⟩

/-- R143, R48: a chunk that `parseChunk` returns is consistent, and it consumes 12 + length bytes of those given. -/
theorem parseChunk_ok {s : List Byte} {c : Chunk} {k : Nat} (h : parseChunk s = .ok c k) :
    k = 12 + c.length.toNat ∧ k ≤ s.length ∧ c.Consistent := by
  rcases parseChunk_cases s with ⟨-, h1⟩ | ⟨hl, h1 | ⟨c', h1, hlen, -, hd, -, hcrc⟩⟩
  · simp [h1] at h
  · simp [h1] at h
  · rw [h1] at h
    obtain ⟨rfl, rfl⟩ := ChunkResult.ok.inj h
    rw [hlen]
    refine ⟨rfl, hl, ?_, hcrc⟩
    rw [hd, slice_length (by rw [hlen]; omega)]
    omega

/-- R174: any two amounts of fuel that cover the rest of the stream give the same answer. -/
theorem parseLoop_fuel (cfg : Config) {m n : Nat} {rest : List Byte} (off : Nat) (acc : List Chunk) (total : Nat)
    (hm : rest.length ≤ m) (hn : rest.length ≤ n) :
    parseLoop cfg m rest off acc total = parseLoop cfg n rest off acc total := by
  induction m generalizing n rest off acc total with
  | zero =>
    obtain rfl : rest = [] := List.length_eq_zero_iff.1 (by omega)
    cases n <;> rfl
  | succ m ih =>
    cases rest with
    | nil => cases n <;> rfl
    | cons b bs =>
      cases n with
      | zero => simp at hn
      | succ n =>
        simp only [List.length_cons] at hm hn
        unfold parseLoop
        cases hp : parseChunk (b :: bs) with
        | truncated => rfl
        | checksumMismatch => rfl
        | ok c k =>
          have := parseChunk_ok hp
          simp only
          split
          · rfl
          · apply ih <;> simp only [List.length_drop, List.length_cons] <;> omega

@[simp] theorem storedBytes_nil : storedBytes [] = 0 := rfl

@[simp] theorem storedBytes_cons (c : Chunk) (cs : List Chunk) : storedBytes (c :: cs) = c.data.length + storedBytes cs := by
  simp [storedBytes]

@[simp] theorem storedBytes_append (as bs : List Chunk) : storedBytes (as ++ bs) = storedBytes as + storedBytes bs := by
  simp [storedBytes]

/-- R141: "Its length |frame(c)| = 12 + c.length", for the length of the payload. -/
@[simp] theorem frame_length (c : Chunk) : (frame c).length = 12 + c.data.length := by
  simp only [frame, List.length_append, Quad.bytes_length]; omega

@[simp] theorem containerBytes_nil : containerBytes [] = signature := by simp [containerBytes]

/-- R173: the length of a serialized container. -/
theorem containerBytes_length (cs : List Chunk) : (containerBytes cs).length = 8 + 12 * cs.length + storedBytes cs := by
  have h : ((cs.map frame).flatten).length = 12 * cs.length + storedBytes cs := by
    induction cs with
    | nil => rfl
    | cons c cs ih => simp only [List.map_cons, List.flatten_cons, List.length_append, frame_length, ih, storedBytes_cons, List.length_cons]; omega
  simp only [containerBytes, List.length_append, h, signature, List.length_cons, List.length_nil]; omega

@[simp] theorem findFrom_nil (mode : NonUtf8Match) (key : List Byte) (i : Nat) : findFrom mode key i [] = .none := rfl

/-- R174: the loop at a chunk. -/
theorem parseLoop_cons (cfg : Config) (fuel : Nat) (b : Byte) (bs : List Byte) (off : Nat) (acc : List Chunk) (total : Nat) :
    parseLoop cfg (fuel + 1) (b :: bs) off acc total =
      match parseChunk (b :: bs) with
      | .truncated => .error .truncated off
      | .checksumMismatch => .error .checksumMismatch off
      | .ok c k =>
        if acc.length + 1 > cfg.pMaxChunks ∨ total + c.length.toNat > cfg.pStoreBytes then .error .capacityExceeded off
        else parseLoop cfg fuel ((b :: bs).drop k) (off + k) (acc ++ [c]) (total + c.length.toNat) := rfl

/-- R172: the search at one entry. -/
theorem findFrom_cons (mode : NonUtf8Match) (key : List Byte) (i : Nat) (c : Chunk) (cs : List Chunk) :
    findFrom mode key i (c :: cs) =
      if utf8 c.type then (if keyMatch key c.type then .found i c else findFrom mode key (i + 1) cs)
      else match mode with
        | .fault => .typeNotText i
        | .noMatch => findFrom mode key (i + 1) cs := by
  cases mode <;> rfl

end Sys2Proof.Machine
end

