-- ==== Sys2Proof/Laws/Step.lean ====
section
/-! SUPPORT. What a step can do, by whose turn it is; what a host access can do (R31, R62, R68). -/

namespace Sys2Proof.Machine

/-- R7, R230: a step is the block's, the host's or a power-on reset. -/
theorem step_cases (s : State) :
    (s.turn = .block ∧ step s = blockStep s.endTurn) ∨ (s.turn = .host ∧ step s = hostStep s.endTurn) ∨
      (s.turn = .powerOn ∧ step s = .next s.endTurn.powerOnReset) := by
  unfold step
  cases s.turn <;> simp

/-- R32, R218: the block performs the pending word, or is idle. -/
theorem blockStep_cases (s : State) :
    (∃ w, s.pending = some w ∧ blockStep s = perform w s) ∨ (s.pending = none ∧ blockStep s = .next s) := by
  unfold blockStep
  cases s.pending <;> simp

/-- R81, R205: a word is performed as the command it decodes to, or raises IllegalCommand. -/
theorem perform_cases (w : Word) (s : State) :
    (∃ i, decode w = .command i ∧ perform w s = exec i s) ∨
      (∃ why, decode w = .illegal why ∧ perform w s = .next (raise .illegalCommand w s)) := by
  unfold perform
  cases decode w <;> simp

/-- R68: the accesses inside the contract, whether or not the block is busy. -/
theorem accessRefusal_eq_none (cfg : Config) (a : Access) (w : Bool) :
    accessRefusal cfg a w = none ↔
      (a.space = .reg ∧ a.bits = 32 ∧ cfg.pBase ≤ a.addr ∧ a.addr < cfg.pBase + 0x100 ∧ (a.addr - cfg.pBase) % 4 = 0) ∨
      (a.space = .ibuf ∧ a.bits = 8 ∧ a.addr < cfg.pIbufBytes) ∨
      (a.space = .obuf ∧ w = false ∧ a.bits = 8 ∧ a.addr < cfg.pObufBytes) := by
  rcases a with ⟨sp, ad, bits⟩
  unfold accessRefusal regSpaceBytes
  cases sp <;> dsimp only
  all_goals (repeat' split)
  all_goals simp only [reduceCtorEq, false_iff, true_iff, false_and, true_and, or_false, false_or]
  all_goals first | omega | simp_all

/-- R31, R62, R240: what a host write that is inside the contract does to the state. -/
theorem hostWrite_ok {a : Access} {v : Word} {s t : State} (h : hostWrite a v s = .ok t) :
    t = s ∨ (s.busy = false ∧
      (t = { s with pending := some v } ∨ t = { s with arg := v } ∨ t = { s with ilen := v } ∨
        (a.addr < s.cfg.pIbufBytes ∧ t = { s with ibuf := s.ibuf.write a.addr (v.setWidth 8) }))) := by
  unfold hostWrite at h
  split at h
  · cases h
  case h_2 hok =>
    split at h
    case h_1 =>
      unfold State.writeOffset at h
      split at h
      case h_1 r _ =>
        unfold State.writeReg at h
        cases r <;> simp only at h
        case cmd | arg | ilen =>
          split at h
          · cases h
          · next hb => cases h; exact .inr ⟨by simpa using hb, by simp⟩
        all_goals (cases h; exact .inl rfl)
      case h_2 => cases h; exact .inl rfl
    case h_2 hsp =>
      unfold State.writeIbuf at h
      split at h
      · cases h
      · next hb =>
        cases h
        refine .inr ⟨by simpa using hb, .inr (.inr (.inr ⟨?_, rfl⟩))⟩
        unfold accessRefusal at hok
        rw [hsp] at hok
        simp only at hok
        split at hok
        · cases hok
        · split at hok
          · cases hok
          · next h => exact Nat.lt_of_not_le h
    case h_3 => cases h

/-- R31, R62, R240: one move of the host changes its own agent, and at most one of CMD's pending word, ARG, ILEN and an IBUF cell. -/
theorem hostMove_next {s t : State} {m : HostMove} (h : hostMove s m = .next t) :
    ∃ hs v a, t = { s with host := hs } ∨ (s.busy = false ∧
      (t = { s with host := hs, pending := some v } ∨ t = { s with host := hs, arg := v } ∨ t = { s with host := hs, ilen := v } ∨
        (a < s.cfg.pIbufBytes ∧ t = { s with host := hs, ibuf := s.ibuf.write a (v.setWidth 8) }))) := by
  cases m with
  | write a v =>
    simp only [hostMove] at h
    unfold ofAccess at h
    split at h
    · next x hx => cases h; exact ⟨s.host, v, a.addr, hostWrite_ok hx⟩
    · cases h
  | read a x =>
    simp only [hostMove] at h
    unfold ofAccess at h
    split at h
    · cases h; exact ⟨_, 0, 0, .inl rfl⟩
    · cases h
  | readByte a x =>
    simp only [hostMove] at h
    unfold ofAccess at h
    split at h
    · cases h; exact ⟨_, 0, 0, .inl rfl⟩
    · cases h
  | poll =>
    simp only [hostMove] at h
    unfold ofAccess at h
    split at h
    · cases h; exact ⟨_, 0, 0, .inl rfl⟩
    · cases h
  | test =>
    cases h; exact ⟨_, 0, 0, .inl rfl⟩

/-- The same of a step of the host. -/
theorem hostStep_next {s t : State} (h : hostStep s = .next t) :
    ∃ hs v a, t = { s with host := hs } ∨ (s.busy = false ∧
      (t = { s with host := hs, pending := some v } ∨ t = { s with host := hs, arg := v } ∨ t = { s with host := hs, ilen := v } ∨
        (a < s.cfg.pIbufBytes ∧ t = { s with host := hs, ibuf := s.ibuf.write a (v.setWidth 8) }))) := by
  unfold hostStep at h
  split at h
  · cases h; exact ⟨s.host, 0, 0, .inl rfl⟩
  · split at h
    · obtain ⟨hs, v, a, h⟩ := hostMove_next h; exact ⟨hs, v, a, h⟩
    · split at h
      · cases h; exact ⟨s.host, 0, 0, .inl rfl⟩
      · cases h; exact ⟨_, 0, 0, .inl rfl⟩

/-- R86: a line of the host's program is read in one step, which changes nothing but the host agent. -/
theorem hostStep_readLine {s : State} {l : HostLine} (hf : s.host.failed = false) (ht : s.host.todo = [])
    (hl : s.host.prog[s.host.line]? = some l) : hostStep s = .next { s with host := (s.host.readLine s.cfg l).nextDraw } := by
  simp [hostStep, hf, ht, hl]

/-- R68, R240: a host access is refused for a move outside the contract only; so a step of the host is refused at an access only. -/
theorem hostStep_refused {s : State} {r : Refusal} (h : hostStep s = .refused r) :
    ∃ m ms, s.host.todo = m :: ms ∧ hostMove { s with host := { s.host with todo := ms } } m = .refused r := by
  unfold hostStep at h
  split at h
  · cases h
  · split at h
    · next m ms hm => exact ⟨m, ms, hm, h⟩
    · split at h <;> cases h

/-- Running on past a step that answers a next state. -/
theorem core_run_next {s t : State} (h : step s = .next t) (k : Nat) : Sys2Proof.core.run (k + 1) s = Sys2Proof.core.run k t := by
  have h' : Sys2Proof.core.step s = .next t := h
  simp only [Host.Core.run, h']

/-- A run stops at a refused step. -/
theorem core_run_refused {s : State} {r : Refusal} (h : step s = .refused r) (k : Nat) :
    Sys2Proof.core.run (k + 1) s = .refused r := by
  have h' : Sys2Proof.core.step s = .refused r := h
  simp only [Host.Core.run, h']

end Sys2Proof.Machine
end

