-- ==== Sys2Proof/Laws/Exec.lean ====
section
/-! SUPPORT. What every command can do, said once: it ends with an error of its list and changes nothing but the report (R203), or it ends
with success after its own writes (R204), which leave the operands, the report registers and the model's own fields alone. -/

namespace Sys2Proof.Machine

/-- R174: the errors the loop of PNG_PARSE raises. -/
theorem parseLoop_error {cfg : Config} {fuel : Nat} {rest : List Byte} {off total : Nat} {acc : List Chunk} {e : ErrKind} {o : Nat}
    (h : parseLoop cfg fuel rest off acc total = .error e o) : e = .truncated ∨ e = .checksumMismatch ∨ e = .capacityExceeded := by
  induction fuel generalizing rest off acc total with
  | zero =>
    cases rest with
    | nil => cases h
    | cons b bs => cases h; simp
  | succ n ih =>
    cases rest with
    | nil => cases h
    | cons b bs =>
      rw [parseLoop_cons] at h
      split at h
      · cases h; simp
      · cases h; simp
      · split at h
        · cases h; simp
        · exact ih h

/-- R174: the errors PNG_PARSE raises once its input is read. -/
theorem parseStream_error {cfg : Config} {s : List Byte} {e : ErrKind} {o : Nat} (h : parseStream cfg s = .error e o) :
    e = .invalidSignature ∨ e = .truncated ∨ e = .checksumMismatch ∨ e = .capacityExceeded := by
  unfold parseStream at h
  split at h
  · cases h; simp
  · exact .inr (parseLoop_error h)

/-- R203, R204: the two ways a command ends, and what its own writes never touch. -/
theorem exec_ends {i : Instr} {s t : State} (h : exec i s = .next t) :
    (∃ e info, e ∈ errorsOf i ∧ t = raise e info s) ∨
    ∃ s', t = complete s' ∧ s'.cfg = s.cfg ∧ s'.host = s.host ∧ s'.sched = s.sched ∧ s'.draws = s.draws ∧ s'.pending = s.pending ∧
      s'.ibuf = s.ibuf ∧
      (i ≠ .srst → s'.arg = s.arg ∧ s'.ilen = s.ilen ∧ s'.esticky = s.esticky ∧ s'.eaddr = s.eaddr) ∧
      (i ≠ .srst → i ∉ resultWriters → s'.res = s.res) ∧
      (i ∉ outputWriters → s'.obuf = s.obuf ∧ (i ≠ .srst → s'.olen = s.olen)) := by
  cases i <;> simp only [exec] at h <;> cases h
  case pngParse =>
    rcases needInput_cases s _ with ⟨-, h⟩ | ⟨-, h⟩ <;> rw [h]
    · cases hp : parseStream s.cfg s.input with
      | error e off => exact .inl ⟨e, _, by rcases parseStream_error hp with rfl | rfl | rfl | rfl <;> simp [errorsOf], rfl⟩
      | ok cs => exact .inr ⟨_, rfl, by simp [resultWriters, outputWriters]⟩
    · exact .inl ⟨_, _, by simp [errorsOf], rfl⟩
  all_goals
    try unfold typeQuery
    try unfold needType
    try unfold needChunk
    try unfold needContainer
    try unfold needInput
    try unfold deliver
    try dsimp only
    repeat' split
  all_goals
    first
    | exact .inl ⟨_, _, by simp [errorsOf], rfl⟩
    | exact .inr ⟨_, rfl, by simp [resultWriters, outputWriters]⟩

end Sys2Proof.Machine
end

