-- ==== Sys2Proof/Laws/PerInstr.lean ====
section
/-! SUPPORT. Per-instruction laws: the command word of every command is of format F0 (R80: bits [31:8] are zero). -/

namespace Sys2Proof.Laws.FormatF0

/-- R80: bits [31:8] of the command word are zero, so the word is its opcode. -/
def Statement (i : Instr) : Prop := zeroFieldWf (encode i) = true ∧ (encode i).toNat < 256

theorem srst : Statement .srst := ⟨by decide, by decide⟩
theorem ctFromBytes : Statement .ctFromBytes := ⟨by decide, by decide⟩
theorem ctFromString : Statement .ctFromString := ⟨by decide, by decide⟩
theorem ctBytes : Statement .ctBytes := ⟨by decide, by decide⟩
theorem ctIsCritical : Statement .ctIsCritical := ⟨by decide, by decide⟩
theorem ctIsPublic : Statement .ctIsPublic := ⟨by decide, by decide⟩
theorem ctIsReservedBitValid : Statement .ctIsReservedBitValid := ⟨by decide, by decide⟩
theorem ctIsSafeToCopy : Statement .ctIsSafeToCopy := ⟨by decide, by decide⟩
theorem ctIsValid : Statement .ctIsValid := ⟨by decide, by decide⟩
theorem crcCompute : Statement .crcCompute := ⟨by decide, by decide⟩
theorem chunkNew : Statement .chunkNew := ⟨by decide, by decide⟩
theorem chunkParse : Statement .chunkParse := ⟨by decide, by decide⟩
theorem chunkAsBytes : Statement .chunkAsBytes := ⟨by decide, by decide⟩
theorem chunkLength : Statement .chunkLength := ⟨by decide, by decide⟩
theorem chunkType : Statement .chunkType := ⟨by decide, by decide⟩
theorem chunkCrc : Statement .chunkCrc := ⟨by decide, by decide⟩
theorem chunkData : Statement .chunkData := ⟨by decide, by decide⟩
theorem pngParse : Statement .pngParse := ⟨by decide, by decide⟩
theorem pngAppend : Statement .pngAppend := ⟨by decide, by decide⟩
theorem pngRemove : Statement .pngRemove := ⟨by decide, by decide⟩
theorem pngChunkByType : Statement .pngChunkByType := ⟨by decide, by decide⟩
theorem pngAsBytes : Statement .pngAsBytes := ⟨by decide, by decide⟩

end Sys2Proof.Laws.FormatF0
end

