-- ==== Sys2Proof/Tests/Slice0.lean ====
section
/-! SUPPORT. The model's own tests: the WellFormed checks on ill-formed terms, each command's word, one step of each command on the vectors of
95_test_vectors.md (the vector is named in the docstring), and for every obligation with hypotheses a state that meets them. -/

namespace Sys2Proof.Tests

open Sys2Proof.Machine

/-! ## WellFormed -/

/-- R8: one less than the least buffer is refused, the least and the largest are accepted, one more is refused. -/
theorem test_buffer_size_wf : Config.bufferSizeWf 11 = false ∧ Config.bufferSizeWf 12 = true ∧ Config.bufferSizeWf (2 ^ 32 - 1) = true ∧
    Config.bufferSizeWf (2 ^ 32) = false := by decide

/-- R8: no room for a chunk is refused. -/
theorem test_chunk_count_wf : Config.chunkCountWf 0 = false ∧ Config.chunkCountWf 1 = true ∧ Config.chunkCountWf (2 ^ 32) = false := by
  decide

/-- R8: each constraint on its own makes the parameters ill formed. -/
theorem test_config_wf : resetConfig.wf = true ∧ (Config.mk 11 12 1 0 true .fault 0).wf = false ∧
    (Config.mk 12 11 1 0 true .fault 0).wf = false ∧ (Config.mk 12 12 0 0 true .fault 0).wf = false ∧
    (Config.mk 12 12 1 0 true .fault 0).wf = true := by decide

/-- R80: a word with any bit of [31:8] is refused. -/
theorem test_zero_field_wf : zeroFieldWf 0x00000100 = false ∧ zeroFieldWf 0x80000010 = false ∧ zeroFieldWf 0x000000FF = true := by decide

/-! ## Decoding: the words of R82 as the table prints them -/

theorem test_decode_control_and_type :
    decode 0x00000001 = .command .srst ∧ decode 0x00000010 = .command .ctFromBytes ∧ decode 0x00000011 = .command .ctFromString ∧
    decode 0x00000012 = .command .ctBytes ∧ decode 0x00000013 = .command .ctIsCritical ∧ decode 0x00000014 = .command .ctIsPublic ∧
    decode 0x00000015 = .command .ctIsReservedBitValid ∧ decode 0x00000016 = .command .ctIsSafeToCopy ∧
    decode 0x00000017 = .command .ctIsValid := by decide

theorem test_decode_crc_and_chunk :
    decode 0x00000020 = .command .crcCompute ∧ decode 0x00000030 = .command .chunkNew ∧ decode 0x00000031 = .command .chunkParse ∧
    decode 0x00000032 = .command .chunkAsBytes ∧ decode 0x00000033 = .command .chunkLength ∧ decode 0x00000034 = .command .chunkType ∧
    decode 0x00000035 = .command .chunkCrc ∧ decode 0x00000036 = .command .chunkData := by decide

theorem test_decode_container :
    decode 0x00000040 = .command .pngParse ∧ decode 0x00000041 = .command .pngAppend ∧ decode 0x00000042 = .command .pngRemove ∧
    decode 0x00000043 = .command .pngChunkByType ∧ decode 0x00000044 = .command .pngAsBytes := by decide

/-- V-CTL-2, V-CTL-3, V-ERR-7. -/
theorem test_decode_zero_field : decode 0x00000100 = .illegal .zeroFieldNonzero ∧ decode 0x80000010 = .illegal .zeroFieldNonzero ∧
    decode 0x00000130 = .illegal .zeroFieldNonzero := by decide

/-- V-CTL-1, V-CTL-4, and the ends of every illegal range of R83. -/
theorem test_decode_unassigned :
    (decode 0x00 = .illegal .opcodeUnassigned ∧ decode 0x02 = .illegal .opcodeUnassigned ∧ decode 0x0F = .illegal .opcodeUnassigned) ∧
    (decode 0x18 = .illegal .opcodeUnassigned ∧ decode 0x1F = .illegal .opcodeUnassigned ∧ decode 0x21 = .illegal .opcodeUnassigned) ∧
    (decode 0x2F = .illegal .opcodeUnassigned ∧ decode 0x37 = .illegal .opcodeUnassigned ∧ decode 0x3F = .illegal .opcodeUnassigned) ∧
    decode 0x45 = .illegal .opcodeUnassigned ∧ decode 0xFF = .illegal .opcodeUnassigned := by decide

/-! ## States for the tests -/

/-- "RuSt", the type of the source's examples. -/
def ruSt : Quad := ⟨0x52, 0x75, 0x53, 0x74⟩

/-- "IEND". -/
def iend : Quad := ⟨0x49, 0x45, 0x4E, 0x44⟩

/-- IEND12 of 95_test_vectors.md, with another last byte. -/
def iend12 (last : Byte) : List Byte := [0x00, 0x00, 0x00, 0x00, 0x49, 0x45, 0x4E, 0x44, 0xAE, 0x42, 0x60, last]

/-- `load bytes` (R87). -/
def load (b : List Byte) (s : State) : State := { s with ibuf := Memory.writeBytes [] 0 b, ilen := BitVec.ofNat 32 b.length }

/-- The state a command leaves. -/
def after (i : Instr) (s : State) : State :=
  match exec i s with
  | .next t => t
  | .fault _ => s
  | .refused _ => s

theorem exec_after (i : Instr) (s : State) : exec i s = .next (after i s) := by cases i <;> rfl

/-- A type in TR. -/
def typed (q : Quad) : State := { State.reset with tr := q, trv := true }

/-- A chunk of type "RuSt" with one byte. -/
def chunkR : Chunk := mkChunk ruSt [0x61]

/-- The chunk of IEND12. -/
def chunkE : Chunk := mkChunk iend []

/-- A chunk whose type is not text. -/
def chunkF : Chunk := mkChunk ⟨0xFF, 0xFF, 0xFF, 0xFF⟩ []

/-- A chunk in CR. -/
def holding (c : Chunk) : State := { State.reset with cr := c, crv := true }

/-- A container in CS, and "RuSt" loaded. -/
def stored (cs : List Chunk) : State := load ruSt.bytes { State.reset with cs := cs, csv := true }

/-- Everything valid. -/
def full : State := { stored [chunkE, chunkR] with tr := ruSt, trv := true, cr := chunkR, crv := true }

/-- The parameters with P_NONUTF8_MATCH = fault. -/
def faulting (s : State) : State := { s with cfg := { s.cfg with pNonUtf8Match := .fault } }

/-! ## One step of each command -/

/-- V-CTL-7. -/
theorem test_srst : ((after .srst full).statusWord, (after .srst full).ccount, (after .srst full).ilen, (after .srst full).ibuf) =
    (0, 0, 0, full.ibuf) := by decide

/-- The example of R101. -/
theorem test_ctFromBytes : (after .ctFromBytes { State.reset with arg := 0x52755374 }).record =
    { State.reset.record with arg := 0x52755374, tr := ruSt, trv := true } := by decide

/-- V-CT-13. -/
theorem test_ctFromString : (after .ctFromString (load [0x5A, 0x7A, 0x41, 0x61] State.reset)).tr = ⟨0x5A, 0x7A, 0x41, 0x61⟩ := by decide

/-- V-CT-14 to V-CT-20: the boundary bytes and lengths, each InvalidFormat with TRV = 0. -/
theorem test_ctFromString_rejects :
    ∀ b ∈ ([[], [0x52, 0x75, 0x53, 0x74, 0x58], [0x40, 0x42, 0x43, 0x44], [0x5B, 0x61, 0x62, 0x63], [0x60, 0x61, 0x62, 0x63],
        [0x7B, 0x61, 0x62, 0x63], [0xC3, 0xA4, 0x62, 0x63]] : List (List Byte)),
      (after .ctFromString (load b State.reset)).statusWord = 0x00008001 := by decide

/-- V-CT-1. -/
theorem test_ctBytes : (after .ctBytes (typed ruSt)).res = 0x52755374 := by decide

/-- V-CTL-7's last step: NoType. -/
theorem test_ctBytes_noType : (after .ctBytes State.reset).statusWord = 0x00008007 := by decide

/-- V-CT-7 and V-CT-10. -/
theorem test_ctIsCritical : ((after .ctIsCritical (typed ⟨0x72, 0x75, 0x53, 0x74⟩)).res, (after .ctIsCritical (typed ⟨0, 0, 0, 0⟩)).res) =
    (0, 1) := by decide

/-- V-CT-1 and V-CT-3. -/
theorem test_ctIsPublic : ((after .ctIsPublic (typed ruSt)).res, (after .ctIsPublic (typed iend)).res) = (0, 1) := by decide

/-- V-CT-2 and V-CT-1. -/
theorem test_ctIsReservedBitValid : ((after .ctIsReservedBitValid (typed ⟨0x52, 0x75, 0x73, 0x74⟩)).res,
    (after .ctIsReservedBitValid (typed ruSt)).res) = (0, 1) := by decide

/-- V-CT-3 and V-CT-11. -/
theorem test_ctIsSafeToCopy : ((after .ctIsSafeToCopy (typed iend)).res,
    (after .ctIsSafeToCopy (typed ⟨0xFF, 0xFF, 0xFF, 0xFF⟩)).res) = (0, 1) := by decide

/-- V-CT-9: "Ru@T" under both settings of P_VALID_ALPHA. -/
theorem test_ctIsValid : ((after .ctIsValid (typed ⟨0x52, 0x75, 0x40, 0x54⟩)).res,
    (after .ctIsValid { typed ⟨0x52, 0x75, 0x40, 0x54⟩ with cfg := { resetConfig with pValidAlpha := true } }).res) = (1, 0) := by decide

/-- V-CRC-4. -/
theorem test_crcCompute : (after .crcCompute (load [0x31, 0x32, 0x33, 0x34, 0x35, 0x36, 0x37, 0x38, 0x39] State.reset)).res =
    0xCBF43926 := by decide +kernel

/-- V-CRC-16. -/
theorem test_crcCompute_capacity : (after .crcCompute { State.reset with ilen := 257 }).statusWord = 0x0000800A := by decide

/-- V-CH-1's chunk: an empty IEND. -/
theorem test_chunkNew : (after .chunkNew (typed iend)).cr = { type := iend, data := [], length := 0, crc := 0xAE426082 } := by
  decide +kernel

/-- V-CH-16. -/
theorem test_chunkNew_priority : (after .chunkNew { State.reset with ilen := 300 }).err = 7 := by decide

/-- V-CH-4. -/
theorem test_chunkParse : ((after .chunkParse (load (iend12 0x82 ++ [1, 2, 3]) State.reset)).res,
    (after .chunkParse (load (iend12 0x82 ++ [1, 2, 3]) State.reset)).cr) =
    (12, { type := iend, data := [], length := 0, crc := 0xAE426082 }) := by decide +kernel

/-- V-CH-9 (no wrap) and V-CH-10. -/
theorem test_chunkParse_errors :
    ((after .chunkParse (load ([0xFF, 0xFF, 0xFF, 0xFF] ++ (iend12 0x82).drop 4) State.reset)).err,
      (after .chunkParse (load (iend12 0x83) State.reset)).err) = (3, 2) := by decide +kernel

/-- V-CH-1: OBUF = IEND12. -/
theorem test_chunkAsBytes : ((after .chunkAsBytes (holding chunkE)).olen, (after .chunkAsBytes (holding chunkE)).obuf) =
    (12, Memory.writeBytes [] 0 (iend12 0x82)) := by decide +kernel

/-- V-CH-14's shape: 12 + length one above P_OBUF_BYTES. -/
theorem test_chunkAsBytes_capacity :
    (after .chunkAsBytes { holding chunkR with cfg := { resetConfig with pObufBytes := 12 } }).err = 10 := by decide

/-- R146 on a chunk of one byte. -/
theorem test_chunkLength : (after .chunkLength (holding chunkR)).res = 1 := by decide

/-- The example of R147. -/
theorem test_chunkType : ((after .chunkType (holding chunkE)).res, (after .chunkType (holding chunkE)).tr) = (0x49454E44, iend) := by decide

/-- V-CH-1: the checksum of an empty IEND. -/
theorem test_chunkCrc : (after .chunkCrc (holding chunkE)).res = 0xAE426082 := by decide +kernel

/-- R149: the payload, and nothing at OLEN and above. -/
theorem test_chunkData : ((after .chunkData (holding chunkR)).olen, (after .chunkData (holding chunkR)).obuf) = (1, [(0, 0x61)]) := by decide

/-- V-PNG-2, and the signature followed by IEND12. -/
theorem test_pngParse : ((after .pngParse (load signature State.reset)).statusWord,
    (after .pngParse (load (signature ++ iend12 0x82) State.reset)).cs) =
    (0x00000400, [{ type := iend, data := [], length := 0, crc := 0xAE426082 }]) := by decide +kernel

/-- V-PNG-3, V-PNG-6's shape (a short tail) and V-PNG-7's shape (a broken checksum): ERR and the offset in EADDR. -/
theorem test_pngParse_errors :
    ((after .pngParse (load (signature.take 7) State.reset)).err,
      (after .pngParse (load (signature ++ iend12 0x82 ++ [0, 0, 0, 0, 0]) State.reset)).err,
      (after .pngParse (load (signature ++ iend12 0x82 ++ [0, 0, 0, 0, 0]) State.reset)).eaddr,
      (after .pngParse (load (signature ++ iend12 0x83) State.reset)).eaddr) = (4, 3, 20, 8) := by decide +kernel

/-- V-PNG-24's shape: no de-duplication. -/
theorem test_pngAppend : (after .pngAppend full).ccount = 3 := by decide

/-- V-PNG-20 and V-ERR-2. -/
theorem test_pngAppend_errors : ((after .pngAppend (holding chunkR)).err, (after .pngAppend State.reset).err) = (9, 8) := by decide

/-- V-PNG-13's shape: the index, the chunk, and the order of the rest. -/
theorem test_pngRemove : ((after .pngRemove (stored [chunkE, chunkR, chunkE, chunkR])).res,
    (after .pngRemove (stored [chunkE, chunkR, chunkE, chunkR])).cs.map Chunk.type) = (1, [iend, iend, ruSt]) := by decide

/-- V-PNG-18 and V-PNG-28. -/
theorem test_pngRemove_errors : ((after .pngRemove (stored [])).err, (after .pngRemove (faulting (stored [chunkF, chunkR]))).err) =
    (5, 11) := by decide

/-- V-PNG-25 (the entry that is not text is skipped) and V-PNG-27. -/
theorem test_pngChunkByType : ((after .pngChunkByType (stored [chunkF, chunkR])).res,
    (after .pngChunkByType (faulting (stored [chunkF, chunkR]))).statusWord) = (1, 0x0000840B) := by decide

/-- V-PNG-12: a key in another case is not found, and that is no error. -/
theorem test_pngChunkByType_none : (after .pngChunkByType (load [0x72, 0x75, 0x53, 0x74] (stored [chunkR]))).statusWord = 0x00000400 := by
  decide

/-- V-PNG-17. -/
theorem test_pngAsBytes : ((after .pngAsBytes (stored [])).olen, (after .pngAsBytes (stored [])).obuf) =
    (8, Memory.writeBytes [] 0 [0x89, 0x50, 0x4E, 0x47, 0x0D, 0x0A, 0x1A, 0x0A]) := by decide

/-- V-PNG-22's shape. -/
theorem test_pngAsBytes_capacity :
    (after .pngAsBytes { stored [chunkE] with cfg := { resetConfig with pObufBytes := 19 } }).err = 10 := by decide

/-! ## Witnesses: a state that meets the hypotheses of each obligation -/

theorem consistent_chunkR : chunkR.Consistent := ⟨rfl, rfl⟩
theorem consistent_chunkE : chunkE.Consistent := ⟨rfl, rfl⟩
theorem consistent_chunkF : chunkF.Consistent := ⟨rfl, rfl⟩

/-- A state with everything valid meets the invariant. -/
theorem full_inv : full.Inv where
  cfgWf := by decide
  errCode := by decide
  olenFits := by decide
  crConsistent _ := ⟨consistent_chunkR, by decide⟩
  csConsistent c hc := by
    have : c = chunkE ∨ c = chunkR := by simpa [full, stored, load] using hc
    rcases this with rfl | rfl
    · exact ⟨consistent_chunkE, by decide⟩
    · exact ⟨consistent_chunkR, by decide⟩
  csCount := by decide
  csBytes := by decide
  csEmpty h := by cases h
  ibufWf := by decide
  ibufCells := by decide
  obufWf := by decide
  obufCells := by decide

theorem reset_inv : State.reset.Inv where
  cfgWf := by decide
  errCode := by decide
  olenFits := by decide
  crConsistent h := by cases h
  csConsistent c hc := by cases hc
  csCount := by decide
  csBytes := by decide
  csEmpty _ := rfl
  ibufWf := by decide
  ibufCells := by decide
  obufWf := by decide
  obufCells := by decide

/-- `full` with smaller or larger output buffers. -/
theorem full_obuf_inv (n : Nat) (h : Config.bufferSizeWf n = true) : ({ full with cfg := { resetConfig with pObufBytes := n } } : State).Inv where
  cfgWf := by simp only [Config.wf, h, Bool.and_true]; decide
  errCode := full_inv.errCode
  olenFits := Nat.zero_le _
  crConsistent := full_inv.crConsistent
  csConsistent := full_inv.csConsistent
  csCount := full_inv.csCount
  csBytes := full_inv.csBytes
  csEmpty := full_inv.csEmpty
  ibufWf := full_inv.ibufWf
  ibufCells := full_inv.ibufCells
  obufWf := full_inv.obufWf
  obufCells x hx := by cases hx

theorem witness_PowerOnAndSoftResetValues : (∃ p : State, p = State.reset) ∧ ∃ (p : State) (cfg : Config), p = State.powerOn cfg :=
  ⟨⟨_, rfl⟩, _, resetConfig, rfl⟩

theorem witness_SoftResetResult : ∃ s : State, s.statusWord = 0 ∧ s.cs = [] ∧ s.arg = 0 ∧ s.res = 0 ∧ s.ilen = 0 ∧ s.olen = 0 ∧
    s.eaddr = 0 ∧ s.ibuf ≠ [] := ⟨{ load [1, 2] State.reset with ilen := 0 }, by decide⟩

theorem witness_PowerOnResetDiscardsThePendingCommand :
    ({ full with pending := some 0x44, sched := [.powerOn] } : State).turn = .powerOn := rfl

theorem witness_ResetMeetsTheInvariant : resetConfig.wf = true ∧ (Config.mk 12 12 1 0 true .fault 0x1000).wf = true := by decide

theorem witness_StepKeepsTheInvariant : full.Inv ∧ ∃ t, step full = .next t := ⟨full_inv, _, rfl⟩

theorem witness_DecodeAndEncodeAgree : Instr.srst.wf = true ∧ decode 0x00000044 = .command .pngAsBytes := by decide

theorem witness_IllegalWordsAndTheirReport : decode 0x00000145 = .illegal .zeroFieldNonzero ∧ decode 0 = .illegal .opcodeUnassigned := by
  decide

theorem witness_StepRunsTheDecodedCommand :
    (∃ s : State, s.turn = .block ∧ s.pending = some 0x44 ∧ decode 0x44 = .command .pngAsBytes) ∧
    ∃ s : State, s.turn = .block ∧ s.pending = some 0x45 ∧ decode 0x45 = .illegal .opcodeUnassigned :=
  ⟨⟨{ full with pending := some 0x44 }, by decide⟩, ⟨{ full with pending := some 0x45 }, by decide⟩⟩

theorem witness_IdleBlockHoldsItsState : ({ full with sched := [.block] } : State).turn = .block ∧ full.pending = none := by decide

theorem witness_ErrorsChangeOnlyTheReport : ∃ t, exec .ctBytes State.reset = .next t ∧ t.err ≠ 0 := ⟨_, exec_after _ _, by decide⟩

theorem witness_SuccessKeepsStickyAndErrorAddress :
    ∃ t, exec .ctBytes (typed ruSt) = .next t ∧ t.err = 0 ∧ Instr.ctBytes ≠ .srst := ⟨_, exec_after _ _, by decide⟩

/-- The three disjuncts: no information, a chunk offset, an index. -/
theorem witness_OnlyListedErrorsAreRaised :
    (State.reset.Inv ∧ ∃ t, exec .ctBytes State.reset = .next t ∧ t.err ≠ 0) ∧
    ((load signature State.reset).Inv ∧ ∃ t, exec .pngParse (load (signature ++ [0]) State.reset) = .next t ∧ t.err ≠ 0 ∧ t.eaddr = 8) ∧
    ∃ t, exec .pngRemove (faulting (stored [chunkE, chunkF])) = .next t ∧ t.err ≠ 0 ∧ t.eaddr = 1 :=
  ⟨⟨reset_inv, _, exec_after _ _, by decide⟩,
    ⟨{ reset_inv with ibufWf := by decide, ibufCells := by decide }, _, exec_after _ _, by decide⟩, _, exec_after _ _, by decide⟩

theorem witness_StickyErrorIsClearedOnlyByReset :
    (∃ t, exec .ctBytes State.reset = .next t ∧ t.err ≠ 0) ∧
    (∃ t, exec .ctBytes { typed ruSt with esticky := true } = .next t ∧ ({ typed ruSt with esticky := true } : State).esticky = true) ∧
    (∃ t, hostWrite (regAccess resetConfig .arg) 1 State.reset = .ok t) ∧
    ∃ s t : State, step s = .next t ∧ s.esticky = true ∧ t.esticky = false :=
  ⟨⟨_, exec_after _ _, by decide⟩, ⟨_, exec_after _ _, by decide⟩, ⟨_, rfl⟩,
    { full with esticky := true, pending := some 0x00000001 }, _, rfl, rfl, rfl⟩

theorem witness_ValidBitsFollowTheValueRegisters :
    (∃ t, exec .pngChunkByType full = .next t ∧ t.err = 0 ∧ t.res = 1) ∧
    (State.reset.trv = false ∧ Instr.chunkNew ∈ typeReaders) ∧ (State.reset.crv = false ∧ Instr.pngAppend ∈ chunkReaders) ∧
    (State.reset.csv = false ∧ Instr.pngAsBytes ∈ containerReaders) ∧ (holding chunkR).crv = true ∧ (holding chunkR).csv = false :=
  ⟨⟨_, exec_after _ _, by decide⟩, by decide⟩

/-- ILEN one above the capacity, for every command that reads IBUF. -/
theorem witness_InputBeyondCapacityIsReported : ∀ i ∈ inputReaders, (i ∈ typeReaders → ({ full with ilen := 257 } : State).trv = true) ∧
    (i ∈ containerReaders → ({ full with ilen := 257 } : State).csv = true) ∧
    ({ full with ilen := 257 } : State).cfg.pIbufBytes < ({ full with ilen := 257 } : State).ilen.toNat := by decide

theorem witness_CommandsLeaveTheirOperandsAlone : ∃ t, exec .pngRemove full = .next t ∧ Instr.pngRemove ≠ .srst :=
  ⟨_, exec_after _ _, by decide⟩

theorem witness_OnlyListedCommandsWriteTheResult :
    (∃ t, exec .pngAppend full = .next t ∧ Instr.pngAppend ≠ .srst ∧ Instr.pngAppend ∉ resultWriters) ∧
    ∃ t, exec .pngRemove (stored []) = .next t ∧ t.err ≠ 0 := ⟨⟨_, exec_after _ _, by decide⟩, _, exec_after _ _, by decide⟩

theorem witness_OnlyThreeCommandsWriteTheOutputBuffer :
    full.Inv ∧ (∃ t, exec .pngAppend full = .next t ∧ Instr.pngAppend ∉ outputWriters) ∧
    ∃ t, exec .chunkData full = .next t ∧ Instr.chunkData ∈ outputWriters ∧ t.err = 0 :=
  ⟨full_inv, ⟨_, exec_after _ _, by decide⟩, _, exec_after _ _, by decide⟩

/-- The three clauses at their boundaries: 257 bytes; the letters A, Z, a, z; four bytes with one of `@ [ ` {`; five letters. -/
theorem witness_TypeFromStringResult :
    (257 : Word).toNat > resetConfig.pIbufBytes ∧
    ((load [0x41, 0x5A, 0x61, 0x7A] State.reset).ilen = 4 ∧ ∀ k < 4, AsciiLetter ((load [0x41, 0x5A, 0x61, 0x7A] State.reset).ibufByte k)) ∧
    (∀ b ∈ ([0x40, 0x5B, 0x60, 0x7B] : List Byte), ¬AsciiLetter ((load [0x41, 0x5A, 0x61, b] State.reset).ibufByte 3)) ∧
    (load [0x41, 0x41, 0x41, 0x41, 0x41] State.reset).ilen ≠ 4 := by decide

theorem witness_TypeBytesResult : (typed ruSt).trv = true ∧ State.reset.trv = false := by decide
theorem witness_TypePropertyResults : (typed ruSt).trv = true ∧ State.reset.trv = false := by decide
theorem witness_TypeValidityResult : (typed ruSt).trv = true ∧ State.reset.trv = false := by decide

/-- ILEN at the capacity and one above it. -/
theorem witness_CrcComputeResult : ({ State.reset with ilen := 256 } : State).ilen.toNat ≤ resetConfig.pIbufBytes ∧
    resetConfig.pIbufBytes < ({ State.reset with ilen := 257 } : State).ilen.toNat := by decide

theorem witness_SingleBitFlipChangesTheCrc : 0 < ([0x00] : List Byte).length ∧ 7 < 8 := by decide

theorem witness_ChunkNewResult : State.reset.trv = false ∧
    (({ typed ruSt with ilen := 257 } : State).trv = true ∧ resetConfig.pIbufBytes < ({ typed ruSt with ilen := 257 } : State).ilen.toNat) ∧
    ({ typed ruSt with ilen := 256 } : State).trv = true ∧ ({ typed ruSt with ilen := 256 } : State).ilen.toNat ≤ resetConfig.pIbufBytes := by
  decide

/-- Every clause: 257 bytes; 11 bytes; 12 bytes that promise 13; 12 bytes with a wrong and with the right checksum. -/
theorem witness_ChunkParseResult :
    resetConfig.pIbufBytes < ({ State.reset with ilen := 257 } : State).ilen.toNat ∧
    (load ((iend12 0x82).take 11) State.reset).ilen.toNat < 12 ∧
    12 < 12 + (be32 (quadAt (load ([0, 0, 0, 1] ++ (iend12 0x82).drop 4) State.reset).input 0)).toNat ∧
    (∀ last ∈ ([0x83, 0x82] : List Byte), 12 + (be32 (quadAt (load (iend12 last) State.reset).input 0)).toNat ≤ 12) ∧
    crc32 (iend.bytes ++ []) ≠ be32 (quadAt (load (iend12 0x83) State.reset).input 8) ∧
    crc32 (iend.bytes ++ []) = be32 (quadAt (load (iend12 0x82) State.reset).input 8) := by decide +kernel

/-- The chunk of 13 bytes against buffers of 12 and 13. -/
theorem witness_ChunkAsBytesResult : (State.reset.Inv ∧ State.reset.crv = false) ∧
    (({ full with cfg := { resetConfig with pObufBytes := 12 } } : State).Inv ∧ 12 < 12 + chunkR.length.toNat) ∧
    ({ full with cfg := { resetConfig with pObufBytes := 13 } } : State).Inv ∧ 12 + chunkR.length.toNat ≤ 13 :=
  ⟨⟨reset_inv, rfl⟩, ⟨full_obuf_inv 12 (by decide), by decide⟩, full_obuf_inv 13 (by decide), by decide⟩

/-- A payload of 13 bytes. -/
def chunkL : Chunk := mkChunk ruSt (List.replicate 13 0)

/-- The payload of 13 bytes against buffers of 12 and 13. -/
theorem witness_ChunkDataResult : (State.reset.Inv ∧ State.reset.crv = false) ∧
    (({ full with cr := chunkL, cfg := { resetConfig with pObufBytes := 12 } } : State).Inv ∧ 12 < chunkL.length.toNat) ∧
    ({ full with cr := chunkL, cfg := { resetConfig with pObufBytes := 13 } } : State).Inv ∧ chunkL.length.toNat ≤ 13 :=
  ⟨⟨reset_inv, rfl⟩,
    ⟨{ full_obuf_inv 12 (by decide) with crConsistent := fun _ => ⟨⟨by decide, rfl⟩, by decide⟩ }, by decide⟩,
    { full_obuf_inv 13 (by decide) with crConsistent := fun _ => ⟨⟨by decide, rfl⟩, by decide⟩ }, by decide⟩

theorem witness_ChunkAccessorResults : full.Inv ∧ full.crv = true ∧ State.reset.crv = false := ⟨full_inv, rfl, rfl⟩

/-- The first bit of the type and the last bit of the checksum. -/
theorem witness_ChecksumDetectsEveryBitFlip : ([0x61] : List Byte).length < 2 ^ 32 ∧ 4 ≤ 4 ∧ 12 < 12 + ([0x61] : List Byte).length ∧ 7 < 8 := by
  decide

theorem witness_ChunkRoundTripThroughTheBuffers : full.Inv ∧ full.trv = true ∧ 12 + full.ilen.toNat ≤ full.cfg.pIbufBytes ∧
    12 + full.ilen.toNat ≤ full.cfg.pObufBytes := ⟨full_inv, by decide⟩

/-- Over the bytes of a container of one chunk: the clean end, tails of 1 and of 11 bytes, a wrong checksum, and a second chunk with room
for one. -/
theorem witness_PngParseResult :
    resetConfig.pIbufBytes < ({ State.reset with ilen := 257 } : State).ilen.toNat ∧
    ((load (signature.take 7) State.reset).input.length < 8 ∧ slice (load (0x88 :: signature.drop 1) State.reset).input 0 8 ≠ signature) ∧
    (load (signature ++ iend12 0x82) State.reset).input = containerBytes [chunkE] ∧
    (∀ tail ∈ ([[0], (iend12 0x82).take 11] : List (List Byte)), parseChunk tail = .truncated) ∧
    parseChunk (iend12 0x83) = .checksumMismatch ∧ parseChunk (iend12 0x82) = .ok chunkE 12 ∧
    [chunkE].length + 1 > ({ resetConfig with pMaxChunks := 1 } : Config).pMaxChunks := by decide +kernel

/-- The store full by count, full by bytes, and with exactly enough room. -/
theorem witness_PngAppendResult : State.reset.crv = false ∧ ((holding chunkR).crv = true ∧ (holding chunkR).csv = false) ∧
    (full.crv = true ∧ full.csv = true ∧ full.cs.length + 1 > 2 ∧ storedBytes full.cs + full.cr.length.toNat > 1) ∧
    full.cs.length + 1 ≤ 3 ∧ storedBytes full.cs + full.cr.length.toNat ≤ 2 := by decide

/-- Both searches: found at index 1, an entry that is not text under `fault`, and nothing found. -/
theorem witness_search_results :
    (stored [chunkE, chunkR]).cs = [chunkE] ++ chunkR :: [] ∧ (∀ x ∈ [chunkE], Passes .noMatch ruSt.bytes x ∧ Passes .fault ruSt.bytes x) ∧
    utf8 chunkR.type = true ∧ (stored [chunkE, chunkR]).input = chunkR.type.bytes ∧ (faulting (stored [])).cfg.pNonUtf8Match = .fault ∧
    utf8 chunkF.type = false ∧ (∀ x ∈ [chunkF, chunkE], Passes .noMatch ruSt.bytes x) := by
  have h : utf8 chunkE.type = true ∧ utf8 chunkF.type = false ∧ ruSt.bytes ≠ chunkE.type.bytes := by decide
  refine ⟨rfl, ?_, by decide, by decide, rfl, by decide, ?_⟩ <;> simp [Passes, h]

theorem witness_PngRemoveResult : State.reset.csv = false ∧ (({ full with ilen := 257 } : State).csv = true ∧
    resetConfig.pIbufBytes < ({ full with ilen := 257 } : State).ilen.toNat) ∧ (stored [chunkE, chunkR]).ilen.toNat ≤ resetConfig.pIbufBytes := by
  decide

theorem witness_PngChunkByTypeResult : State.reset.csv = false ∧ (({ full with ilen := 257 } : State).csv = true ∧
    resetConfig.pIbufBytes < ({ full with ilen := 257 } : State).ilen.toNat) ∧ (stored [chunkE, chunkR]).ilen.toNat ≤ resetConfig.pIbufBytes := by
  decide

/-- A container of 33 bytes against buffers of 32 and 33. -/
theorem witness_PngAsBytesResult : (State.reset.Inv ∧ State.reset.csv = false) ∧
    (({ full with cfg := { resetConfig with pObufBytes := 32 } } : State).Inv ∧ 32 < 8 + (full.cs.map fun c => 12 + c.length.toNat).sum) ∧
    ({ full with cfg := { resetConfig with pObufBytes := 33 } } : State).Inv ∧ 8 + (full.cs.map fun c => 12 + c.length.toNat).sum ≤ 33 :=
  ⟨⟨reset_inv, rfl⟩, ⟨full_obuf_inv 32 (by decide), by decide⟩, full_obuf_inv 33 (by decide), by decide⟩

/-- The state in which the bytes of a container of one chunk are loaded, and a PNG_PARSE that succeeds. -/
theorem witness_ContainerRoundTrip :
    (∃ b, b = containerBytes [chunkE] ∧ (∀ c ∈ [chunkE], c.Consistent) ∧ b.length ≤ 256 ∧ (load b State.reset).ilen.toNat = b.length ∧
      ∀ a < b.length, (load b State.reset).ibuf.read? a = b[a]?) ∧
    ∃ t, exec .pngParse (load signature State.reset) = .next t ∧ t.err = 0 := by
  refine ⟨⟨_, rfl, ?_, by decide, by decide, ?_⟩, _, exec_after _ _, by decide⟩
  · simpa using consistent_chunkE
  · intro a ha
    simp only [load, Memory.read?_writeBytes]
    rw [if_pos (by omega)]; rfl

theorem witness_RemoveThenLookupFindsNone : ∃ (s : State) (pre post : List Chunk) (c : Chunk), s.csv = true ∧
    s.ilen.toNat ≤ s.cfg.pIbufBytes ∧ s.cs = pre ++ c :: post ∧ (∀ a < s.ilen.toNat, s.ibuf.read? a = c.type.bytes[a]?) ∧ s.ilen = 4 ∧
    utf8 c.type = true ∧ (s.cfg.pNonUtf8Match = .noMatch ∨ ∀ x ∈ s.cs, utf8 x.type = true) ∧ ∀ x ∈ pre ++ post, x.type ≠ c.type :=
  ⟨stored [chunkE, chunkR], [chunkE], [], chunkR, rfl, by decide, rfl, by decide, rfl, by decide, by decide, by decide⟩

theorem witness_AppendIsConcatenation : ∃ t, exec .pngAppend full = .next t ∧ t.err = 0 := ⟨_, exec_after _ _, by decide⟩

theorem witness_AsciiTypesAreText : (∀ b ∈ Quad.bytes ⟨0x00, 0x7F, 0x41, 0x7A⟩, b.toNat < 0x80) ∧
    ∀ x ∈ [chunkE, chunkR], ∀ b ∈ x.type.bytes, b.toNat < 0x80 := by decide

/-- The ends of the register space and of its reserved part. -/
theorem witness_HostRegisterMap : (∀ off ∈ ([0x00, 0x04, 0x1C, 0x20, 0xFC] : List Nat), off % 4 = 0 ∧ off < 0x100) ∧
    full.pending = none := by decide

theorem witness_HostByteWriteIsRead : (∃ t, hostWrite (ibufAccess 0) 0xFF full = .ok t) ∧ ∃ t, hostWrite (ibufAccess 255) 0 full = .ok t :=
  ⟨⟨_, rfl⟩, _, rfl⟩

theorem witness_HostStepsChangeOnlyWhatTheHostMayWrite : ∃ s t : State, s.turn = .host ∧ step s = .next t ∧ s.busy = true ∧ t.host.vars ≠ [] :=
  ⟨{ full with pending := some 1, sched := [.host], host := { HostAgent.empty with todo := [.poll] } }, _, rfl, rfl, rfl, by decide⟩

theorem witness_IssuedCommandIsPerformedAndAwaited : ∃ s : State, s.sched = [] ∧ s.pending = none ∧ s.host.failed = false ∧ s.host.todo = [] ∧
    s.host.prog[s.host.line]? = some (.command .pngAppend) :=
  ⟨{ full with host := { HostAgent.empty with prog := [.command .pngAppend] } }, by decide⟩

theorem witness_AcceptedCommandIsPerformed : ({ full with pending := some 0x44, sched := [.host, .host] } : State).pending = some 0x44 := rfl

/-- States that differ only in what cannot be read; one whose step goes on and one whose step is refused. -/
theorem witness_UnreadableRegistersDoNotInterfere :
    State.reset.SameReadable { State.reset with tr := ruSt, cr := chunkR, crcr := 5 } ∧ (∃ t, step State.reset = .next t) ∧
    ∃ r, step { State.reset with host := { HostAgent.empty with todo := [.write (obufAccess 0) 1] } } = .refused r :=
  ⟨⟨rfl, rfl, (nomatch ·), (nomatch ·), rfl⟩, ⟨_, rfl⟩, _, rfl⟩

/-- A host on the line `l` that holds `x` = "RuSt" and `n` = 42 in variables 1 and 2, with the label 7 on line 2. -/
def hostAt (l : HostLine) : State :=
  { State.reset with host := { HostAgent.empty with
      prog := [l, .poll, .label 7], vars := [(1, .bytes ruSt.bytes), (2, .num 42)] } }

/-- One line of each group of the clauses, at the ends of their ranges. -/
theorem witness_HostLinesStandForTheirAccesses :
    (∀ l : HostLine, (hostAt l).turn = .host ∧ (hostAt l).host.failed = false ∧ (hostAt l).host.todo = [] ∧
      (hostAt l).host.prog[(hostAt l).host.line]? = some l) ∧
    (0xFFFFFFFF : Nat) < 2 ^ 32 ∧ ([] : List Byte).length < 2 ^ 32 ∧ ∀ l : HostLine,
      lookupVar (hostAt l).host.vars 1 = some (.bytes ruSt.bytes) ∧ lookupVar (hostAt l).host.vars 2 = some (.num 42) ∧
      labelLines 7 0 [.poll, .poll, .label 7] = [2] :=
  ⟨fun _ => ⟨rfl, rfl, rfl, rfl⟩, by decide, by decide, fun _ => ⟨rfl, rfl, rfl⟩⟩

/-- R86: a branch on host variables that hold bytes. -/
theorem test_host_beq_bytes :
    (∀ t, step (hostAt (.beq (.var 1) (.bytes [0x52, 0x75, 0x53, 0x74]) 7)) = .next t → t.host.line = 2) ∧
    ∀ t, step (hostAt (.beq (.var 1) (.bytes [0x52, 0x75, 0x53]) 7)) = .next t → t.host.line = 1 :=
  ⟨fun _ h => by cases h; rfl, fun _ h => by cases h; rfl⟩

/-- R86: integer arithmetic; 42 / 5 = 8, 42 % 5 = 2, -42 / 6 = -7. -/
theorem test_host_arithmetic :
    evalTerm [(2, .num 42)] 0 1 (.quot (.var 2) (.lit 5)) = .num 8 ∧ evalTerm [(2, .num 42)] 0 1 (.rem (.var 2) (.lit 5)) = .num 2 ∧
    evalTerm [(2, .num 42)] 0 1 (.quot (.sub (.lit 0) (.var 2)) (.lit 6)) = .num (-7) := by decide

end Sys2Proof.Tests
end

section
/-! ## Proofs of the state family: what holds of every command (10_state.md) -/

namespace Sys2Proof.Machine

/-- R32, R246: every command answers a next state; none stops the block. -/
theorem exec_next (i : Instr) (s : State) : ∃ t, exec i s = .next t := by
  cases i <;> exact ⟨_, rfl⟩

/-- R81, R82: the decoder reads back every encoded command. -/
theorem decode_encode (i : Instr) : decode (encode i) = .command i := by
  cases i <;> decide

/-- R32: with the turn and a word pending, the block performs that word; the schedule has moved on. -/
theorem step_of_pending {s : State} {w : Word} (ht : s.turn = .block) (hp : s.pending = some w) :
    step s = perform w s.endTurn := by
  simp only [step, ht, blockStep, State.endTurn_pending, hp]

/-- R81: a word that decodes to a command is performed as that command. -/
theorem perform_of_command {w : Word} {i : Instr} (h : decode w = .command i) (s : State) : perform w s = exec i s := by
  simp only [perform, h]

/-- R205: an illegal word raises IllegalCommand. -/
theorem perform_of_illegal {w : Word} {why : Illegal} (h : decode w = .illegal why) (s : State) :
    perform w s = .next (raise .illegalCommand w s) := by
  simp only [perform, h]

/-- When the host has the turn, the step is the host's. -/
theorem step_of_host {s : State} (ht : s.turn = .host) : step s = hostStep s.endTurn := by
  simp only [step, ht]

/-- Settles O11: both ways a command ends clear BUSY, and its own writes leave the model's fields alone. -/
theorem everyCommandEndsInOneStep : Obligations.EveryCommandEndsInOneStep := by
  intro i s
  obtain ⟨t, ht⟩ := exec_next i s
  refine ⟨t, ht, ?_⟩
  rcases exec_ends ht with ⟨e, info, -, rfl⟩ | ⟨s', rfl, hcfg, hhost, hsched, -⟩
  · exact ⟨rfl, rfl, rfl, rfl⟩
  · exact ⟨rfl, hcfg, hhost, hsched⟩

/-- R38: no command but SRST clears ESTICKY. -/
theorem exec_keeps_esticky {i : Instr} {s t : State} (h : exec i s = .next t) (hi : i ≠ .srst) (hs : s.esticky = true) :
    t.esticky = true := by
  rcases exec_ends h with ⟨e, info, -, rfl⟩ | ⟨s', rfl, -, -, -, -, -, -, hkeep, -⟩
  · rfl
  · obtain ⟨-, -, hst, -⟩ := hkeep hi
    exact hst.trans hs

/-- R38: a command that ends with an error leaves ESTICKY 1. -/
theorem exec_error_sets_esticky {i : Instr} {s t : State} (h : exec i s = .next t) (he : t.err ≠ 0) : t.esticky = true := by
  rcases exec_ends h with ⟨e, info, -, rfl⟩ | ⟨s', rfl, -⟩
  · rfl
  · exact absurd rfl he

/-- R38: a host write leaves ESTICKY as it is. -/
theorem hostWrite_esticky {a : Access} {v : Word} {s t : State} (h : hostWrite a v s = .ok t) : t.esticky = s.esticky := by
  rcases hostWrite_ok h with rfl | ⟨-, rfl | rfl | rfl | ⟨-, rfl⟩⟩ <;> rfl

/-- R38: a step of the host leaves ESTICKY as it is. -/
theorem hostStep_esticky {s t : State} (h : hostStep s = .next t) : t.esticky = s.esticky := by
  obtain ⟨hs, v, a, rfl | ⟨-, rfl | rfl | rfl | ⟨-, rfl⟩⟩⟩ := hostStep_next h <;> rfl

/-- R38: a word that, performed, clears ESTICKY decodes to SRST. -/
theorem decode_of_perform_clears_esticky {w : Word} {s t : State} (h : perform w s = .next t) (hs : s.esticky = true)
    (ht : t.esticky = false) : decode w = .command .srst := by
  rcases perform_cases w s with ⟨i, hd, hp⟩ | ⟨why, -, hp⟩ <;> rw [hp] at h
  · have hi : i = .srst := by
      by_contra hne
      simp [exec_keeps_esticky h hne hs] at ht
    rw [hd, hi]
  · cases h
    simp at ht

/-- The row found for an opcode stands in the opcode map. -/
theorem mem_of_rowOf {op : Byte} {i : Instr} {rows : List (Byte × Instr)} (h : rowOf op rows = some i) : (op, i) ∈ rows := by
  induction rows with
  | nil => cases h
  | cons r rows ih =>
    obtain ⟨o, j⟩ := r
    unfold rowOf at h
    split at h
    case isTrue ho => cases h; simp [ho]
    case isFalse => exact List.mem_cons_of_mem _ (ih h)

/-- R82: every row of the opcode map is the low byte of its command's word. -/
theorem encode_of_mem_opcodeMap : ∀ r ∈ opcodeMap, encode r.2 = r.1.setWidth 32 := by decide

/-- R80: a word whose field `zero` is zero is its opcode. -/
theorem eq_setWidth_of_zeroFieldWf {w : Word} (h : zeroFieldWf w = true) : w = (w.extractLsb' 0 8).setWidth 32 := by
  have hz : (w.extractLsb' 8 24).toNat = 0 := congrArg BitVec.toNat (of_decide_eq_true h)
  rw [BitVec.extractLsb'_toNat, Nat.shiftRight_eq_div_pow] at hz
  apply BitVec.eq_of_toNat_eq
  rw [BitVec.toNat_setWidth, BitVec.extractLsb'_toNat, Nat.shiftRight_zero]
  omega

/-- R81, R82: a word that decodes to a command is that command's word. -/
theorem eq_encode_of_decode {w : Word} {i : Instr} (h : decode w = .command i) : w = encode i := by
  unfold decode at h
  split at h
  case isTrue hz =>
    split at h
    case h_1 j hr =>
      cases h
      rw [encode_of_mem_opcodeMap _ (mem_of_rowOf hr)]
      exact eq_setWidth_of_zeroFieldWf hz
    case h_2 => cases h
  case isFalse => cases h

/-- Settles O15: by whose turn the step is; the block clears ESTICKY with SRST's word only, a host step never. -/
theorem stickyErrorIsClearedOnlyByReset : Obligations.StickyErrorIsClearedOnlyByReset := by
  refine ⟨fun i s t => exec_error_sets_esticky, fun i s t => exec_keeps_esticky, fun a v s t => hostWrite_esticky, ?_⟩
  intro s t h hs ht
  rcases step_cases s with ⟨hturn, hstep⟩ | ⟨hturn, hstep⟩ | ⟨hturn, -⟩
  · rw [hstep] at h
    rcases blockStep_cases s.endTurn with ⟨w, hp, hb⟩ | ⟨-, hb⟩ <;> rw [hb] at h
    · have hd := decode_of_perform_clears_esticky h hs ht
      exact .inr ⟨hturn, by rw [← eq_encode_of_decode hd]; exact hp⟩
    · cases h
      simp [hs] at ht
  · rw [hstep] at h
    have hkeep := hostStep_esticky h
    simp [hs, ht] at hkeep
  · exact .inl hturn

/-- Settles O18: an error writes the report only, and a command's own writes leave IBUF, ARG and ILEN alone. -/
theorem commandsLeaveTheirOperandsAlone : Obligations.CommandsLeaveTheirOperandsAlone := by
  intro i s t h
  rcases exec_ends h with ⟨e, info, -, rfl⟩ | ⟨s', rfl, -, -, -, -, -, hibuf, hkeep, -⟩
  · exact ⟨fun _ => rfl, fun _ => ⟨rfl, rfl⟩⟩
  · refine ⟨fun a => by rw [complete_ibuf, hibuf], fun hi => ?_⟩
    obtain ⟨harg, hilen, -⟩ := hkeep hi
    exact ⟨harg, hilen⟩

/-- Settles O19: an error writes the report only, and a command R41 does not list does not write RES. -/
theorem onlyListedCommandsWriteTheResult : Obligations.OnlyListedCommandsWriteTheResult := by
  intro i s t h hi hw
  rcases exec_ends h with ⟨e, info, -, rfl⟩ | ⟨s', rfl, -, -, -, -, -, -, -, hres, -⟩
  · rfl
  · rcases hw with hw | he
    · exact hres hi hw
    · exact absurd rfl he

/-- Settles O1: the power-on record and SRST's writes hold R55's values as they stand. -/
theorem powerOnAndSoftResetValues : Obligations.PowerOnAndSoftResetValues := by
  refine ⟨?_, fun s => ⟨_, rfl, ?_⟩⟩
  · rintro p (rfl | ⟨cfg, rfl⟩)
    · simp [State.reset, State.powerOn, State.ccount]
    · simp [State.powerOn, State.ccount]
  · simp [State.ccount]

/-- R80: the 32 bits of a word are the word. -/
theorem tableWord_toNat (w : Word) : tableWord 32 w.toNat = w := by
  simp [tableWord, Nat.mod_eq_of_lt w.isLt]

/-- Settles O9: the block's turn performs the pending word, which is exec of its command or the report. -/
theorem stepRunsTheDecodedCommand : Obligations.StepRunsTheDecodedCommand := by
  refine ⟨fun s w i ht hp hd => ?_, fun s w why ht hp hd => ?_, fun s i => ?_⟩
  · rw [step_of_pending ht hp, perform_of_command hd]
    rfl
  · rw [step_of_pending ht hp, perform_of_illegal hd]
    rfl
  · rw [State.withFetchWord, tableWord_toNat, step_of_pending rfl rfl, perform_of_command (decode_encode i)]
    rfl

end Sys2Proof.Machine
end

section
/-! ## The invariant of R34, R43, R48 and R49 over every step -/

namespace Sys2Proof.Machine

/-- R55: the power-on state meets the invariant for all parameters R8 allows. -/
theorem powerOn_inv {cfg : Config} (h : cfg.wf = true) : (State.powerOn cfg).Inv where
  cfgWf := h
  errCode := Nat.zero_le _
  olenFits := Nat.zero_le _
  crConsistent hv := by cases hv
  csConsistent c hc := by cases hc
  csCount := Nat.zero_le _
  csBytes := Nat.zero_le _
  csEmpty _ := rfl
  ibufWf := .nil
  ibufCells x hx := by cases hx
  obufWf := .nil
  obufCells x hx := by cases hx

/-! The two ways a command ends -/

/-- R204: a successful report keeps the invariant. -/
theorem complete_inv {s : State} (h : s.Inv) : (complete s).Inv := { h with errCode := Nat.zero_le _ }

/-- R203: an error report keeps the invariant. -/
theorem raise_inv {s : State} (h : s.Inv) (e : ErrKind) (info : Word) : (raise e info s).Inv :=
  { h with errCode := e.code_range.2 }

/-! The operand and output forms of R85 -/

/-- R207: a command that reads TR keeps the invariant if it does so with TRV = 1. -/
theorem needType_inv {s : State} {k : Quad → State} (h : s.Inv) (hk : s.trv = true → (k s.tr).Inv) : (needType s k).Inv := by
  rcases needType_cases s k with ⟨hv, he⟩ | ⟨-, he⟩ <;> rw [he]
  · exact hk hv
  · exact raise_inv h _ _

/-- R207: a command that reads CR keeps the invariant if it does so with CRV = 1. -/
theorem needChunk_inv {s : State} {k : Chunk → State} (h : s.Inv) (hk : s.crv = true → (k s.cr).Inv) : (needChunk s k).Inv := by
  rcases needChunk_cases s k with ⟨hv, he⟩ | ⟨-, he⟩ <;> rw [he]
  · exact hk hv
  · exact raise_inv h _ _

/-- R207: a command that reads CS keeps the invariant if it does so with CSV = 1. -/
theorem needContainer_inv {s : State} {k : List Chunk → State} (h : s.Inv) (hk : s.csv = true → (k s.cs).Inv) :
    (needContainer s k).Inv := by
  rcases needContainer_cases s k with ⟨hv, he⟩ | ⟨-, he⟩ <;> rw [he]
  · exact hk hv
  · exact raise_inv h _ _

/-- R206 (a): a command that reads IBUF keeps the invariant if it does so with ILEN within the capacity. -/
theorem needInput_inv {s : State} {k : List Byte → State} (h : s.Inv)
    (hk : s.ilen.toNat ≤ s.cfg.pIbufBytes → (k s.input).Inv) : (needInput s k).Inv := by
  rcases needInput_cases s k with ⟨hn, he⟩ | ⟨-, he⟩ <;> rw [he]
  · exact hk hn
  · exact raise_inv h _ _

/-- R63, R206 (b): an output of as many bytes as OLEN says keeps the invariant. -/
theorem deliver_inv {s : State} {n : Nat} {b : List Byte} (h : s.Inv) (hn : b.length = n) : (deliver s n b).Inv := by
  rcases deliver_cases s n b with ⟨hfit, he⟩ | ⟨-, he⟩ <;> rw [he]
  · refine complete_inv { h with olenFits := ?_, obufWf := Memory.writeBytes_wf h.obufWf _ _, obufCells := fun x hx => ?_ }
    · exact (Nat.mod_le _ _).trans hfit
    · rcases Memory.mem_writeBytes hx with hlt | hmem
      · exact Nat.lt_of_lt_of_le hlt (by dsimp only; omega)
      · exact h.obufCells x hmem
  · exact raise_inv h _ _

/-! The value registers -/

/-- A chunk the block may hold: consistent (R48), with a payload that came through IBUF. -/
def Chunk.Held (cfg : Config) (c : Chunk) : Prop := c.Consistent ∧ c.data.length ≤ cfg.pIbufBytes

theorem Chunk.Held.length_eq {cfg : Config} {c : Chunk} (h : c.Held cfg) : c.length.toNat = c.data.length := by
  obtain ⟨⟨hlen, -⟩, -⟩ := h
  exact hlen

/-- A container the block may hold (R49). -/
structure HeldContainer (cfg : Config) (cs : List Chunk) : Prop where
  chunks : ∀ c ∈ cs, c.Held cfg
  count : cs.length ≤ cfg.pMaxChunks
  bytes : storedBytes cs ≤ cfg.pStoreBytes

/-- R48: the chunk in CR is held while CRV = 1. -/
theorem State.Inv.heldChunk {s : State} (h : s.Inv) (hv : s.crv = true) : s.cr.Held s.cfg := h.crConsistent hv

/-- R49: the container in CS is held. -/
theorem State.Inv.heldContainer {s : State} (h : s.Inv) : HeldContainer s.cfg s.cs where
  chunks := h.csConsistent
  count := h.csCount
  bytes := h.csBytes

/-- RES is not in the invariant. -/
theorem State.Inv.setRes {s : State} (h : s.Inv) (v : Word) : ({ s with res := v } : State).Inv := { h with }

/-- TR and TRV are not in the invariant. -/
theorem State.Inv.setType {s : State} (h : s.Inv) (q : Quad) : ({ s with tr := q, trv := true } : State).Inv := { h with }

/-- R48: a held chunk may go into CR. -/
theorem State.Inv.setChunk {s : State} (h : s.Inv) {c : Chunk} (hc : c.Held s.cfg) :
    ({ s with cr := c, crv := true } : State).Inv := { h with crConsistent := fun _ => hc }

/-- R49: a held container may go into CS while CSV becomes or stays 1. -/
theorem State.Inv.setContainer {s : State} (h : s.Inv) {cs : List Chunk} (hcs : HeldContainer s.cfg cs) :
    ({ s with cs := cs, csv := true } : State).Inv :=
  { h with csConsistent := hcs.chunks, csCount := hcs.count, csBytes := hcs.bytes, csEmpty := fun hv => by cases hv }

/-! What the pure functions build is held -/

/-- R142: the chunk of the input, its length being ILEN, is held. -/
theorem held_of_input {s : State} (t : Quad) (hn : s.ilen.toNat ≤ s.cfg.pIbufBytes) :
    Chunk.Held s.cfg { type := t, data := s.input, length := s.ilen, crc := chunkCrc t s.input } :=
  ⟨⟨(State.input_length s).symm, rfl⟩, (State.input_length s).trans_le hn⟩

/-- R143: a parsed chunk is held if the bytes it was parsed from fit in IBUF. -/
theorem parseChunk_held {cfg : Config} {b : List Byte} {c : Chunk} {k : Nat} (h : parseChunk b = .ok c k)
    (hb : b.length ≤ cfg.pIbufBytes) : c.Held cfg := by
  obtain ⟨hk, hle, hc⟩ := parseChunk_ok h
  refine ⟨hc, ?_⟩
  obtain ⟨hlen, -⟩ := hc
  omega

theorem heldContainer_nil (cfg : Config) : HeldContainer cfg [] where
  chunks c hc := by cases hc
  count := Nat.zero_le _
  bytes := Nat.zero_le _

/-- R175: a held chunk may be appended where there is room for it. -/
theorem HeldContainer.append {cfg : Config} {cs : List Chunk} {c : Chunk} (hcs : HeldContainer cfg cs) (hc : c.Held cfg)
    (hcount : cs.length + 1 ≤ cfg.pMaxChunks) (hbytes : storedBytes cs + c.length.toNat ≤ cfg.pStoreBytes) :
    HeldContainer cfg (cs ++ [c]) where
  chunks x hx := by
    rcases List.mem_append.1 hx with hx | hx
    · exact hcs.chunks x hx
    · rwa [List.mem_singleton.1 hx]
  count := by simpa using hcount
  bytes := by simpa [← hc.length_eq] using hbytes

/-- R176: what is left of a held container is held. -/
theorem HeldContainer.sublist {cfg : Config} {cs ds : List Chunk} (h : HeldContainer cfg cs) (hd : ds.Sublist cs) :
    HeldContainer cfg ds where
  chunks c hc := h.chunks c (hd.subset hc)
  count := hd.length_le.trans h.count
  bytes := ((hd.map _).sum_le_sum fun _ _ => Nat.zero_le _).trans h.bytes

/-- R174: the loop of PNG_PARSE gathers a held container from bytes that fit in IBUF. -/
theorem parseLoop_held {cfg : Config} {fuel : Nat} {rest : List Byte} {off : Nat} {acc cs : List Chunk}
    (h : parseLoop cfg fuel rest off acc (storedBytes acc) = .ok cs) (hacc : HeldContainer cfg acc)
    (hb : rest.length ≤ cfg.pIbufBytes) : HeldContainer cfg cs := by
  induction fuel generalizing rest off acc with
  | zero =>
    cases rest with
    | nil => cases h; exact hacc
    | cons b bs => cases h
  | succ fuel ih =>
    cases rest with
    | nil => cases h; exact hacc
    | cons b bs =>
      rw [parseLoop_cons] at h
      split at h
      case h_1 | h_2 => cases h
      case h_3 c k hp =>
        split at h
        case isTrue => cases h
        case isFalse hroom =>
          have hc : c.Held cfg := parseChunk_held hp hb
          have hsum : storedBytes (acc ++ [c]) = storedBytes acc + c.length.toNat := by simp [hc.length_eq]
          rw [← hsum] at h
          exact ih h (hacc.append hc (by omega) (by omega)) ((List.length_drop ..).trans_le ((Nat.sub_le _ _).trans hb))

/-- R174: a container PNG_PARSE returns is held. -/
theorem parseStream_held {cfg : Config} {b : List Byte} {cs : List Chunk} (h : parseStream cfg b = .ok cs)
    (hb : b.length ≤ cfg.pIbufBytes) : HeldContainer cfg cs := by
  unfold parseStream at h
  split at h
  case isTrue => cases h
  case isFalse =>
    exact parseLoop_held h (heldContainer_nil cfg) ((List.length_drop ..).trans_le ((Nat.sub_le _ _).trans hb))

/-- R172: a chunk the search finds is an entry of the container. -/
theorem mem_of_findFrom {mode : NonUtf8Match} {key : List Byte} {i j : Nat} {cs : List Chunk} {c : Chunk}
    (h : findFrom mode key i cs = .found j c) : c ∈ cs := by
  induction cs generalizing i with
  | nil => cases h
  | cons d cs ih =>
    rw [findFrom_cons] at h
    split at h
    case isTrue =>
      split at h
      case isTrue => cases h; exact List.mem_cons_self
      case isFalse => exact List.mem_cons_of_mem _ (ih h)
    case isFalse =>
      split at h
      case h_1 => cases h
      case h_2 => exact List.mem_cons_of_mem _ (ih h)

/-- R176: the entries before and after an index are a part of the container. -/
theorem take_append_drop_succ_sublist (cs : List Chunk) (i : Nat) : (cs.take i ++ cs.drop (i + 1)).Sublist cs := by
  rw [← List.eraseIdx_eq_take_drop_succ]
  exact List.eraseIdx_sublist ..

/-! Every command -/

theorem typeQuery_inv {s : State} (h : s.Inv) (f : Quad → Word) : (typeQuery f s).Inv :=
  needType_inv h fun _ => complete_inv (h.setRes _)

theorem execSrst_inv {s t : State} (h : s.Inv) (ht : execSrst s = .next t) : t.Inv := by
  cases ht
  exact complete_inv { h with
    olenFits := Nat.zero_le _
    crConsistent := fun hv => by cases hv
    csConsistent := (heldContainer_nil s.cfg).chunks
    csCount := Nat.zero_le _
    csBytes := Nat.zero_le _
    csEmpty := fun _ => rfl }

theorem execCtFromString_inv {s t : State} (h : s.Inv) (ht : execCtFromString s = .next t) : t.Inv := by
  cases ht
  refine needInput_inv h fun _ => ?_
  split
  · exact raise_inv h _ _
  · split
    · exact complete_inv (h.setType _)
    · exact raise_inv h _ _

theorem execChunkNew_inv {s t : State} (h : s.Inv) (ht : execChunkNew s = .next t) : t.Inv := by
  cases ht
  exact needType_inv h fun _ => needInput_inv h fun hn => complete_inv (h.setChunk (held_of_input _ hn))

theorem execChunkParse_inv {s t : State} (h : s.Inv) (ht : execChunkParse s = .next t) : t.Inv := by
  cases ht
  refine needInput_inv h fun hn => ?_
  split
  case h_1 | h_2 => exact raise_inv h _ _
  case h_3 c k hp => exact complete_inv ((h.setChunk (parseChunk_held hp (by simpa using hn))).setRes _)

theorem execPngParse_inv {s t : State} (h : s.Inv) (ht : execPngParse s = .next t) : t.Inv := by
  cases ht
  refine needInput_inv h fun hn => ?_
  split
  case h_1 => exact raise_inv h _ _
  case h_2 cs hp => exact complete_inv ((h.setContainer (parseStream_held hp (by simpa using hn))).setRes _)

theorem execPngAppend_inv {s t : State} (h : s.Inv) (ht : execPngAppend s = .next t) : t.Inv := by
  cases ht
  refine needChunk_inv h fun hcr => needContainer_inv h fun hcs => ?_
  split
  case isTrue => exact raise_inv h _ _
  case isFalse hroom =>
    have hheld := h.heldContainer.append (h.heldChunk hcr) (by omega) (by omega)
    have hset := h.setContainer hheld
    rw [← hcs] at hset
    exact complete_inv hset

theorem execPngRemove_inv {s t : State} (h : s.Inv) (ht : execPngRemove s = .next t) : t.Inv := by
  cases ht
  refine needContainer_inv h fun hcs => needInput_inv h fun _ => ?_
  split
  case h_1 | h_2 => exact raise_inv h _ _
  case h_3 i c hf =>
    have hset := h.setContainer (h.heldContainer.sublist (take_append_drop_succ_sublist s.cs i))
    rw [← hcs] at hset
    exact complete_inv ((hset.setChunk (h.heldContainer.chunks c (mem_of_findFrom hf))).setRes _)

theorem execPngChunkByType_inv {s t : State} (h : s.Inv) (ht : execPngChunkByType s = .next t) : t.Inv := by
  cases ht
  refine needContainer_inv h fun _ => needInput_inv h fun _ => ?_
  split
  case h_1 => exact raise_inv h _ _
  case h_2 => exact complete_inv (h.setRes _)
  case h_3 i c hf => exact complete_inv ((h.setChunk (h.heldContainer.chunks c (mem_of_findFrom hf))).setRes _)

/-- Every command keeps the invariant. -/
theorem exec_inv {i : Instr} {s t : State} (h : s.Inv) (ht : exec i s = .next t) : t.Inv := by
  cases i with
  | srst => exact execSrst_inv h ht
  | ctFromBytes => cases ht; exact complete_inv (h.setType _)
  | ctFromString => exact execCtFromString_inv h ht
  | ctBytes | ctIsCritical | ctIsPublic | ctIsReservedBitValid | ctIsSafeToCopy | ctIsValid =>
    cases ht; exact typeQuery_inv h _
  | crcCompute => cases ht; exact needInput_inv h fun _ => complete_inv (h.setRes _)
  | chunkNew => exact execChunkNew_inv h ht
  | chunkParse => exact execChunkParse_inv h ht
  | chunkAsBytes => cases ht; exact needChunk_inv h fun _ => deliver_inv h rfl
  | chunkLength | chunkCrc => cases ht; exact needChunk_inv h fun _ => complete_inv (h.setRes _)
  | chunkType => cases ht; exact needChunk_inv h fun _ => complete_inv ((h.setType _).setRes _)
  | chunkData => cases ht; exact needChunk_inv h fun hcr => deliver_inv h (h.heldChunk hcr).length_eq.symm
  | pngParse => exact execPngParse_inv h ht
  | pngAppend => exact execPngAppend_inv h ht
  | pngRemove => exact execPngRemove_inv h ht
  | pngChunkByType => exact execPngChunkByType_inv h ht
  | pngAsBytes => cases ht; exact needContainer_inv h fun _ => deliver_inv h rfl

/-! Every step -/

theorem perform_inv {w : Word} {s t : State} (h : s.Inv) (ht : perform w s = .next t) : t.Inv := by
  rcases perform_cases w s with ⟨i, -, hp⟩ | ⟨why, -, hp⟩ <;> rw [hp] at ht
  · exact exec_inv h ht
  · cases ht
    exact raise_inv h _ _

theorem blockStep_inv {s t : State} (h : s.Inv) (ht : blockStep s = .next t) : t.Inv := by
  rcases blockStep_cases s with ⟨w, -, hb⟩ | ⟨-, hb⟩ <;> rw [hb] at ht
  · exact perform_inv h ht
  · cases ht
    exact h

/-- R62: of what the host may write only an IBUF cell is in the invariant. -/
theorem hostStep_inv {s t : State} (h : s.Inv) (ht : hostStep s = .next t) : t.Inv := by
  obtain ⟨hs, v, a, rfl | ⟨-, rfl | rfl | rfl | ⟨ha, rfl⟩⟩⟩ := hostStep_next ht
  case inl | inr.inl | inr.inr.inl | inr.inr.inr.inl => exact { h with }
  case inr.inr.inr.inr =>
    refine { h with ibufWf := Memory.write_wf h.ibufWf _ _, ibufCells := fun x hx => ?_ }
    rcases Memory.mem_write hx with rfl | hmem
    · exact ha
    · exact h.ibufCells x hmem

theorem State.Inv.endTurn {s : State} (h : s.Inv) : s.endTurn.Inv := { h with }

theorem State.Inv.powerOnReset {s : State} (h : s.Inv) : s.powerOnReset.Inv := { powerOn_inv h.cfgWf with }

/-- Settles O5: by whose turn the step is; each of the three moves keeps the invariant. -/
theorem stepKeepsTheInvariant : Obligations.StepKeepsTheInvariant := by
  intro s t h ht
  rcases step_cases s with ⟨-, hs⟩ | ⟨-, hs⟩ | ⟨-, hs⟩ <;> rw [hs] at ht
  · exact blockStep_inv h.endTurn ht
  · exact hostStep_inv h.endTurn ht
  · cases ht
    exact h.endTurn.powerOnReset

end Sys2Proof.Machine
end

section
/-! ## What cannot be read does not interfere (R50, R55, R207) -/

namespace Sys2Proof.Machine

/-- `s` with other bytes in TR and CR and another CRCR. -/
def State.withUnreadable (s : State) (q : Quad) (c : Chunk) (w : Word) : State := { s with tr := q, cr := c, crcr := w }

@[simp] theorem State.withUnreadable_cfg (s : State) (q : Quad) (c : Chunk) (w : Word) : (s.withUnreadable q c w).cfg = s.cfg := rfl
@[simp] theorem State.withUnreadable_host (s : State) (q : Quad) (c : Chunk) (w : Word) : (s.withUnreadable q c w).host = s.host := rfl
@[simp] theorem State.withUnreadable_pending (s : State) (q : Quad) (c : Chunk) (w : Word) :
    (s.withUnreadable q c w).pending = s.pending := rfl
@[simp] theorem State.withUnreadable_busy (s : State) (q : Quad) (c : Chunk) (w : Word) : (s.withUnreadable q c w).busy = s.busy := rfl
@[simp] theorem State.withUnreadable_turn (s : State) (q : Quad) (c : Chunk) (w : Word) : (s.withUnreadable q c w).turn = s.turn := rfl

/-- R31, R69: a host read sees none of TR, CR and CRCR. -/
@[simp] theorem hostRead_withUnreadable (a : Access) (s : State) (q : Quad) (c : Chunk) (w : Word) :
    hostRead a (s.withUnreadable q c w) = hostRead a s := rfl

/-- The second of two states that differ only in what cannot be read, in terms of the first. -/
theorem sameReadable_iff {s s' : State} : s.SameReadable s' ↔
    ∃ q c w, s' = s.withUnreadable q c w ∧ (s.trv = true → s.tr = q) ∧ (s.crv = true → s.cr = c) := by
  constructor
  · intro h
    exact ⟨s'.tr, s'.cr, s'.crcr, h.rest.symm, h.tr, h.cr⟩
  · rintro ⟨q, c, w, rfl, htr, hcr⟩
    exact ⟨rfl, rfl, htr, hcr, rfl⟩

/-- Two answers of a step that do not tell such states apart. -/
def AnswersAlike (o o' : Outcome) : Prop :=
  (∀ t, o = .next t → ∃ t', o' = .next t' ∧ t.SameReadable t') ∧ ∀ r, o = .refused r → o' = .refused r

theorem answersAlike_next {t t' : State} (h : t.SameReadable t') : AnswersAlike (.next t) (.next t') := by
  refine ⟨fun u hu => ⟨t', rfl, ?_⟩, nofun⟩
  cases hu
  exact h

theorem answersAlike_refused (r : Refusal) : AnswersAlike (.refused r) (.refused r) :=
  ⟨nofun, fun _ hr => hr⟩

/-- An access with one result, whose value is used alike. -/
theorem ofAccess_alike {α : Type} (r : Except Refusal α) {k k' : α → Outcome} (h : ∀ x, AnswersAlike (k x) (k' x)) :
    AnswersAlike (ofAccess r k) (ofAccess r k') := by
  cases r with
  | ok x => exact h x
  | error e => exact answersAlike_refused e

section
variable {s s' : State}

/-! What the writes of a command or of the host leave alike -/

theorem State.SameReadable.complete (h : s.SameReadable s') : (complete s).SameReadable (complete s') := by
  obtain ⟨q, c, w, rfl, htr, hcr⟩ := sameReadable_iff.1 h
  exact ⟨rfl, rfl, htr, hcr, rfl⟩

theorem State.SameReadable.raise (h : s.SameReadable s') (e : ErrKind) (info : Word) :
    (raise e info s).SameReadable (raise e info s') := by
  obtain ⟨q, c, w, rfl, htr, hcr⟩ := sameReadable_iff.1 h
  exact ⟨rfl, rfl, htr, hcr, rfl⟩

theorem State.SameReadable.endTurn (h : s.SameReadable s') : s.endTurn.SameReadable s'.endTurn := by
  obtain ⟨q, c, w, rfl, htr, hcr⟩ := sameReadable_iff.1 h
  exact ⟨rfl, rfl, htr, hcr, rfl⟩

theorem State.SameReadable.powerOnReset (h : s.SameReadable s') : s.powerOnReset.SameReadable s'.powerOnReset := by
  obtain ⟨q, c, w, rfl, -⟩ := sameReadable_iff.1 h
  exact ⟨rfl, rfl, fun _ => rfl, fun _ => rfl, rfl⟩

theorem State.SameReadable.setRes (h : s.SameReadable s') (v : Word) :
    ({ s with res := v } : State).SameReadable { s' with res := v } := by
  obtain ⟨q, c, w, rfl, htr, hcr⟩ := sameReadable_iff.1 h
  exact ⟨rfl, rfl, htr, hcr, rfl⟩

theorem State.SameReadable.setType (h : s.SameReadable s') (t : Quad) :
    ({ s with tr := t, trv := true } : State).SameReadable { s' with tr := t, trv := true } := by
  obtain ⟨q, c, w, rfl, -, hcr⟩ := sameReadable_iff.1 h
  exact ⟨rfl, rfl, fun _ => rfl, hcr, rfl⟩

theorem State.SameReadable.setChunk (h : s.SameReadable s') (d : Chunk) :
    ({ s with cr := d, crv := true } : State).SameReadable { s' with cr := d, crv := true } := by
  obtain ⟨q, c, w, rfl, htr, -⟩ := sameReadable_iff.1 h
  exact ⟨rfl, rfl, htr, fun _ => rfl, rfl⟩

theorem State.SameReadable.setContainer (h : s.SameReadable s') (cs : List Chunk) (b : Bool) :
    ({ s with cs := cs, csv := b } : State).SameReadable { s' with cs := cs, csv := b } := by
  obtain ⟨q, c, w, rfl, htr, hcr⟩ := sameReadable_iff.1 h
  exact ⟨rfl, rfl, htr, hcr, rfl⟩

theorem State.SameReadable.setHost (h : s.SameReadable s') (a : HostAgent) :
    ({ s with host := a } : State).SameReadable { s' with host := a } := by
  obtain ⟨q, c, w, rfl, htr, hcr⟩ := sameReadable_iff.1 h
  exact ⟨rfl, rfl, htr, hcr, rfl⟩

/-- A choice by what both states have in common. -/
theorem ite_alike (p : Prop) [Decidable p] {a a' b b' : State} (ha : a.SameReadable a') (hb : b.SameReadable b') :
    (if p then a else b).SameReadable (if p then a' else b') := by
  split
  · exact ha
  · exact hb

/-! The operand and output forms of R85: a value register is read only while its valid bit is 1 (R207) -/

theorem needType_alike (h : s.SameReadable s') {k k' : Quad → State} (hk : ∀ t, (k t).SameReadable (k' t)) :
    (needType s k).SameReadable (needType s' k') := by
  unfold needType
  rw [← h.trv]
  split
  case isTrue hv => rw [← h.tr hv]; exact hk _
  case isFalse => exact h.raise _ _

theorem needChunk_alike (h : s.SameReadable s') {k k' : Chunk → State} (hk : ∀ d, (k d).SameReadable (k' d)) :
    (needChunk s k).SameReadable (needChunk s' k') := by
  unfold needChunk
  rw [← h.crv]
  split
  case isTrue hv => rw [← h.cr hv]; exact hk _
  case isFalse => exact h.raise _ _

theorem needContainer_alike (h : s.SameReadable s') {k k' : List Chunk → State} (hk : ∀ cs, (k cs).SameReadable (k' cs)) :
    (needContainer s k).SameReadable (needContainer s' k') := by
  obtain ⟨q, c, w, rfl, -⟩ := sameReadable_iff.1 h
  exact ite_alike (s.csv = true) (hk s.cs) (h.raise _ _)

theorem needInput_alike (h : s.SameReadable s') {k k' : List Byte → State} (hk : ∀ b, (k b).SameReadable (k' b)) :
    (needInput s k).SameReadable (needInput s' k') := by
  obtain ⟨q, c, w, rfl, -⟩ := sameReadable_iff.1 h
  exact ite_alike (s.ilen.toNat > s.cfg.pIbufBytes) (h.raise _ _) (hk s.input)

theorem deliver_alike (h : s.SameReadable s') (n : Nat) (b : List Byte) : (deliver s n b).SameReadable (deliver s' n b) := by
  have hraise := h.raise .capacityExceeded 0
  obtain ⟨q, c, w, rfl, htr, hcr⟩ := sameReadable_iff.1 h
  exact ite_alike (n > s.cfg.pObufBytes) hraise ⟨rfl, rfl, htr, hcr, rfl⟩

theorem typeQuery_alike (h : s.SameReadable s') (f : Quad → Word) : (typeQuery f s).SameReadable (typeQuery f s') :=
  needType_alike h fun _ => (h.setRes _).complete

/-! Every command -/

theorem execSrst_alike (h : s.SameReadable s') : AnswersAlike (execSrst s) (execSrst s') := by
  obtain ⟨q, c, w, rfl, -⟩ := sameReadable_iff.1 h
  exact answersAlike_next ⟨rfl, rfl, nofun, nofun, rfl⟩

theorem execCtFromBytes_alike (h : s.SameReadable s') : AnswersAlike (execCtFromBytes s) (execCtFromBytes s') := by
  obtain ⟨q, c, w, rfl, -⟩ := sameReadable_iff.1 h
  exact answersAlike_next (h.setType s.argType).complete

theorem execCtFromString_alike (h : s.SameReadable s') : AnswersAlike (execCtFromString s) (execCtFromString s') := by
  obtain ⟨q, c, w, rfl, -⟩ := sameReadable_iff.1 h
  exact answersAlike_next <| needInput_alike h fun b =>
    ite_alike (s.ilen.toNat ≠ 4) (h.raise _ _) <| ite_alike _ (h.setType _).complete (h.raise _ _)

theorem execCtIsValid_alike (h : s.SameReadable s') : AnswersAlike (execCtIsValid s) (execCtIsValid s') := by
  obtain ⟨q, c, w, rfl, -⟩ := sameReadable_iff.1 h
  exact answersAlike_next (typeQuery_alike h fun t => zext32 (valid s.cfg t))

theorem execChunkNew_alike (h : s.SameReadable s') : AnswersAlike (execChunkNew s) (execChunkNew s') := by
  obtain ⟨q, c, w, rfl, -⟩ := sameReadable_iff.1 h
  exact answersAlike_next <| needType_alike h fun t => needInput_alike h fun d =>
    (h.setChunk { type := t, data := d, length := s.ilen, crc := chunkCrc t d }).complete

theorem execChunkParse_alike (h : s.SameReadable s') : AnswersAlike (execChunkParse s) (execChunkParse s') := by
  refine answersAlike_next (needInput_alike h fun b => ?_)
  cases parseChunk b with
  | truncated | checksumMismatch => exact h.raise _ _
  | ok c k => exact ((h.setChunk c).setRes _).complete

theorem execPngParse_alike (h : s.SameReadable s') : AnswersAlike (execPngParse s) (execPngParse s') := by
  obtain ⟨q, c, w, rfl, -⟩ := sameReadable_iff.1 h
  refine answersAlike_next (needInput_alike h fun b => ?_)
  rw [State.withUnreadable_cfg]
  cases parseStream s.cfg b with
  | error e off => exact h.raise _ _
  | ok cs => exact ((h.setContainer cs true).setRes _).complete

theorem execPngAppend_alike (h : s.SameReadable s') : AnswersAlike (execPngAppend s) (execPngAppend s') := by
  obtain ⟨q, c, w, rfl, -⟩ := sameReadable_iff.1 h
  exact answersAlike_next <| needChunk_alike h fun d => needContainer_alike h fun cs =>
    ite_alike (cs.length + 1 > s.cfg.pMaxChunks ∨ storedBytes cs + d.length.toNat > s.cfg.pStoreBytes) (h.raise _ _)
      (h.setContainer (cs ++ [d]) s.csv).complete

theorem execPngRemove_alike (h : s.SameReadable s') : AnswersAlike (execPngRemove s) (execPngRemove s') := by
  obtain ⟨q, c, w, rfl, -⟩ := sameReadable_iff.1 h
  refine answersAlike_next (needContainer_alike h fun cs => needInput_alike h fun key => ?_)
  rw [State.withUnreadable_cfg]
  cases findFirst s.cfg cs key with
  | typeNotText i => exact h.raise _ _
  | none => exact h.raise _ _
  | found i d => exact (((h.setContainer _ s.csv).setChunk d).setRes _).complete

theorem execPngChunkByType_alike (h : s.SameReadable s') : AnswersAlike (execPngChunkByType s) (execPngChunkByType s') := by
  obtain ⟨q, c, w, rfl, -⟩ := sameReadable_iff.1 h
  refine answersAlike_next (needContainer_alike h fun cs => needInput_alike h fun key => ?_)
  rw [State.withUnreadable_cfg]
  cases findFirst s.cfg cs key with
  | typeNotText i => exact h.raise _ _
  | none => exact (h.setRes 0).complete
  | found i d => exact ((h.setChunk d).setRes 1).complete

/-- R207: no command tells such states apart. -/
theorem exec_alike (h : s.SameReadable s') (i : Instr) : AnswersAlike (exec i s) (exec i s') := by
  cases i with
  | srst => exact execSrst_alike h
  | ctFromBytes => exact execCtFromBytes_alike h
  | ctFromString => exact execCtFromString_alike h
  | ctBytes | ctIsCritical | ctIsPublic | ctIsReservedBitValid | ctIsSafeToCopy => exact answersAlike_next (typeQuery_alike h _)
  | ctIsValid => exact execCtIsValid_alike h
  | crcCompute => exact answersAlike_next (needInput_alike h fun _ => (h.setRes _).complete)
  | chunkNew => exact execChunkNew_alike h
  | chunkParse => exact execChunkParse_alike h
  | chunkAsBytes | chunkData => exact answersAlike_next (needChunk_alike h fun _ => deliver_alike h _ _)
  | chunkLength | chunkCrc => exact answersAlike_next (needChunk_alike h fun _ => (h.setRes _).complete)
  | chunkType => exact answersAlike_next (needChunk_alike h fun _ => ((h.setType _).setRes _).complete)
  | pngParse => exact execPngParse_alike h
  | pngAppend => exact execPngAppend_alike h
  | pngRemove => exact execPngRemove_alike h
  | pngChunkByType => exact execPngChunkByType_alike h
  | pngAsBytes => exact answersAlike_next (needContainer_alike h fun _ => deliver_alike h _ _)

/-! Every step of the block -/

theorem perform_alike (h : s.SameReadable s') (w : Word) : AnswersAlike (perform w s) (perform w s') := by
  unfold perform
  cases decode w with
  | command i => exact exec_alike h i
  | illegal why => exact answersAlike_next (h.raise _ _)

theorem blockStep_alike (h : s.SameReadable s') : AnswersAlike (blockStep s) (blockStep s') := by
  obtain ⟨q, c, w, rfl, -⟩ := sameReadable_iff.1 h
  unfold blockStep
  rw [State.withUnreadable_pending]
  cases s.pending with
  | some w => exact perform_alike h w
  | none => exact answersAlike_next h

/-! Every step of the host -/

/-- R240: a write the busy bit lets through on both sides or on neither. -/
theorem unlessBusy_alike (h : s.SameReadable s') {t t' : State} (ht : t.SameReadable t') :
    AnswersAlike (ofAccess (if s.busy then .error .hostWriteWhileBusy else .ok t) .next)
      (ofAccess (if s'.busy then .error .hostWriteWhileBusy else .ok t') .next) := by
  obtain ⟨q, c, w, rfl, -⟩ := sameReadable_iff.1 h
  rw [State.withUnreadable_busy]
  cases s.busy with
  | true => exact answersAlike_refused _
  | false => exact answersAlike_next ht

theorem writeReg_alike (h : s.SameReadable s') (r : HostReg) (v : Word) :
    AnswersAlike (ofAccess (s.writeReg r v) .next) (ofAccess (s'.writeReg r v) .next) := by
  cases r with
  | status | res | olen | eaddr | ccount => exact answersAlike_next h
  | cmd | arg | ilen =>
    obtain ⟨q, c, w, rfl, htr, hcr⟩ := sameReadable_iff.1 h
    exact unlessBusy_alike h ⟨rfl, rfl, htr, hcr, rfl⟩

theorem writeOffset_alike (h : s.SameReadable s') (off : Nat) (v : Word) :
    AnswersAlike (ofAccess (s.writeOffset off v) .next) (ofAccess (s'.writeOffset off v) .next) := by
  unfold State.writeOffset
  cases regAt off with
  | some r => exact writeReg_alike h r v
  | none => exact answersAlike_next h

theorem writeIbuf_alike (h : s.SameReadable s') (a : Nat) (b : Byte) :
    AnswersAlike (ofAccess (s.writeIbuf a b) .next) (ofAccess (s'.writeIbuf a b) .next) := by
  obtain ⟨q, c, w, rfl, htr, hcr⟩ := sameReadable_iff.1 h
  exact unlessBusy_alike h ⟨rfl, rfl, htr, hcr, rfl⟩

theorem hostWrite_alike (h : s.SameReadable s') (a : Access) (v : Word) :
    AnswersAlike (ofAccess (hostWrite a v s) .next) (ofAccess (hostWrite a v s') .next) := by
  obtain ⟨q, c, w, rfl, -⟩ := sameReadable_iff.1 h
  unfold hostWrite
  rw [State.withUnreadable_cfg]
  cases accessRefusal s.cfg a true with
  | some r => exact answersAlike_refused r
  | none =>
    obtain ⟨space, addr, bits⟩ := a
    cases space with
    | reg => exact writeOffset_alike h _ v
    | ibuf => exact writeIbuf_alike h _ _
    | obuf => exact answersAlike_refused _

theorem hostMove_alike (h : s.SameReadable s') (m : HostMove) : AnswersAlike (hostMove s m) (hostMove s' m) := by
  cases m with
  | write a v => exact hostWrite_alike h a v
  | read a x | readByte a x | poll =>
    obtain ⟨q, c, w, rfl, -⟩ := sameReadable_iff.1 h
    simp only [hostMove, State.withUnreadable_cfg, hostRead_withUnreadable]
    exact ofAccess_alike _ fun _ => answersAlike_next (h.setHost _)
  | test =>
    obtain ⟨q, c, w, rfl, -⟩ := sameReadable_iff.1 h
    exact answersAlike_next (h.setHost _)

theorem hostStep_alike (h : s.SameReadable s') : AnswersAlike (hostStep s) (hostStep s') := by
  obtain ⟨q, c, w, rfl, -⟩ := sameReadable_iff.1 h
  unfold hostStep
  rw [State.withUnreadable_host]
  split
  · exact answersAlike_next h
  · cases s.host.todo with
    | cons m ms => exact hostMove_alike (h.setHost _) m
    | nil =>
      cases s.host.prog[s.host.line]? with
      | none => exact answersAlike_next h
      | some l => exact answersAlike_next (h.setHost _)

end

/-- Settles O55: such states have the same turn, and the block, the host and the platform each answer them alike. -/
theorem unreadableRegistersDoNotInterfere : Obligations.UnreadableRegistersDoNotInterfere := by
  intro s s' h
  change AnswersAlike (step s) (step s')
  obtain ⟨q, c, w, rfl, -⟩ := sameReadable_iff.1 h
  unfold step
  rw [State.withUnreadable_turn]
  cases s.turn with
  | block => exact blockStep_alike h.endTurn
  | host => exact hostStep_alike h.endTurn
  | powerOn => exact answersAlike_next h.endTurn.powerOnReset

end Sys2Proof.Machine
end

section
/-! ## The host's side: STATUS, the register map, and a command line of the host (R31, R33, R86) -/

namespace Sys2Proof.Machine

/-! The STATUS word -/

/-- R33: a flag reads at its own bit and nowhere else. -/
theorem flagBit_getLsbD {i j : Nat} (hj : j < 32) (b : Bool) : (flagBit i b).getLsbD j = (decide (j = i) && b) := by
  unfold flagBit
  cases b with
  | false => simp
  | true =>
    simp only [if_true, BitVec.getLsbD_shiftLeft, BitVec.getLsbD_one, Bool.and_true]
    by_cases hji : j = i
    · simp [hji ▸ hj, hji]
    · have : ¬(¬j < i ∧ j - i = 0) := by omega
      simpa [hj, hji] using this

/-- R33: the bits of STATUS. -/
theorem statusWord_getLsbD (s : State) {j : Nat} (hj : j < 32) :
    s.statusWord.getLsbD j = (s.err.getLsbD j || (decide (j = 8) && s.trv) || (decide (j = 9) && s.crv) || (decide (j = 10) && s.csv) ||
      (decide (j = 15) && s.esticky) || (decide (j = 16) && s.busy)) := by
  simp only [State.statusWord, BitVec.getLsbD_or, BitVec.getLsbD_setWidth, hj, decide_true, Bool.true_and, flagBit_getLsbD hj]

/-- R33: a field of STATUS that holds none of the listed bits reads 0. -/
theorem statusWord_field_eq_zero (s : State) {lo n : Nat} (hn : lo + n ≤ 32)
    (h : ∀ j, lo ≤ j → j < lo + n → 4 ≤ j ∧ j ≠ 8 ∧ j ≠ 9 ∧ j ≠ 10 ∧ j ≠ 15 ∧ j ≠ 16) : s.statusWord.extractLsb' lo n = 0 := by
  apply BitVec.eq_of_getLsbD_eq
  intro i hi
  obtain ⟨h4, h8, h9, h10, h15, h16⟩ := h (lo + i) (by omega) (by omega)
  rw [BitVec.getLsbD_extractLsb', statusWord_getLsbD s (by omega)]
  simp [h8, h9, h10, h15, h16, BitVec.getLsbD_of_ge s.err _ h4]

/-- R33: bits [3:0] of STATUS. -/
theorem statusWord_err (s : State) : s.statusWord.extractLsb' 0 4 = s.err := by
  apply BitVec.eq_of_getLsbD_eq
  intro i hi
  have hne : ∀ k, 4 ≤ k → i ≠ k := fun k hk => by omega
  rw [BitVec.getLsbD_extractLsb', Nat.zero_add, statusWord_getLsbD s (by omega)]
  simp [hi, hne]

/-- R39: bit 16 of STATUS. -/
theorem statusWord_busy (s : State) : s.statusWord.getLsbD 16 = s.busy := by
  exact (statusWord_getLsbD s (j := 16) (by decide)).trans (by simp)

/-- Settles O48: the listed bits are read off `statusWord_getLsbD`; the three gaps hold none of them. -/
theorem statusLayout : Obligations.StatusLayout := by
  intro s
  refine ⟨statusWord_err s, ?_, ?_, ?_, ?_, ?_, ?_, statusWord_busy s, ?_⟩
  · exact statusWord_field_eq_zero s (by decide) (by omega)
  · exact (statusWord_getLsbD s (j := 8) (by decide)).trans (by simp)
  · exact (statusWord_getLsbD s (j := 9) (by decide)).trans (by simp)
  · exact (statusWord_getLsbD s (j := 10) (by decide)).trans (by simp)
  · exact statusWord_field_eq_zero s (by decide) (by omega)
  · exact (statusWord_getLsbD s (j := 15) (by decide)).trans (by simp)
  · exact statusWord_field_eq_zero s (by decide) (by omega)

/-! The register map -/

/-- R31: every register is found at its offset. -/
@[simp] theorem regAt_offset (r : HostReg) : regAt r.offset = some r := by cases r <;> rfl

/-- R31: a register stands at its offset only. -/
theorem offset_of_regAt {off : Nat} {r : HostReg} (h : regAt off = some r) : r.offset = off := by
  simpa using List.find?_some h

/-- R46: at a reserved offset stands no register. -/
theorem ne_offset_of_regAt_none {off : Nat} (h : regAt off = none) (r : HostReg) : off ≠ r.offset := by
  rintro rfl
  rw [regAt_offset] at h
  cases h

/-- R68: an aligned access of 32 bits inside the REG space is inside the contract. -/
theorem accessRefusal_reg {cfg : Config} {off : Nat} (ha : off % 4 = 0) (hl : off < 0x100) (w : Bool) :
    accessRefusal cfg ⟨.reg, cfg.pBase + off, 32⟩ w = none := by
  rw [accessRefusal_eq_none]
  exact .inl ⟨rfl, rfl, Nat.le_add_right .., Nat.add_lt_add_left hl _, by simpa using ha⟩

/-- R31: a host read inside the REG space. -/
theorem hostRead_reg (s : State) {off : Nat} (ha : off % 4 = 0) (hl : off < 0x100) :
    hostRead ⟨.reg, s.cfg.pBase + off, 32⟩ s = .ok (s.readOffset off) := by
  simp [hostRead, accessRefusal_reg ha hl]

/-- R31: a host write inside the REG space. -/
theorem hostWrite_reg (s : State) {off : Nat} (v : Word) (ha : off % 4 = 0) (hl : off < 0x100) :
    hostWrite ⟨.reg, s.cfg.pBase + off, 32⟩ v s = s.writeOffset off v := by
  simp [hostWrite, accessRefusal_reg ha hl]

theorem HostReg.offset_mod_four (r : HostReg) : r.offset % 4 = 0 := by cases r <;> decide

theorem HostReg.offset_lt (r : HostReg) : r.offset < 0x100 := by cases r <;> decide

/-- R31: a host read of a register. -/
theorem hostRead_regAccess (s : State) (r : HostReg) : hostRead (regAccess s.cfg r) s = .ok (s.readReg r) := by
  rw [regAccess, hostRead_reg s r.offset_mod_four r.offset_lt, State.readOffset, regAt_offset]

/-- R31: a host write of a register. -/
theorem hostWrite_regAccess (s : State) (r : HostReg) (v : Word) : hostWrite (regAccess s.cfg r) v s = s.writeReg r v := by
  rw [regAccess, hostWrite_reg s v r.offset_mod_four r.offset_lt, State.writeOffset, regAt_offset]

/-- R31, R45, R46: what an offset reads. -/
theorem readOffset_eq (s : State) (off : Nat) : s.readOffset off =
    if off = 0x04 then s.statusWord else if off = 0x08 then s.arg else if off = 0x0C then s.res else if off = 0x10 then s.ilen
    else if off = 0x14 then s.olen else if off = 0x18 then s.eaddr
    else if off = 0x1C then (if s.csv then BitVec.ofNat 32 s.cs.length else 0) else 0 := by
  unfold State.readOffset
  cases h : regAt off with
  | some r =>
    cases offset_of_regAt h
    cases r <;> rfl
  | none =>
    have hne := ne_offset_of_regAt_none h
    simp [show off ≠ 0x04 from hne .status, show off ≠ 0x08 from hne .arg, show off ≠ 0x0C from hne .res,
      show off ≠ 0x10 from hne .ilen, show off ≠ 0x14 from hne .olen, show off ≠ 0x18 from hne .eaddr,
      show off ≠ 0x1C from hne .ccount]

/-- R31, R46: a write elsewhere than CMD, ARG and ILEN is ignored. -/
theorem writeOffset_ignored (s : State) {off : Nat} (v : Word) (hcmd : off ≠ HostReg.cmd.offset) (harg : off ≠ HostReg.arg.offset)
    (hilen : off ≠ HostReg.ilen.offset) : s.writeOffset off v = .ok s := by
  unfold State.writeOffset
  cases h : regAt off with
  | none => rfl
  | some r =>
    cases offset_of_regAt h
    cases r with
    | cmd | arg | ilen => contradiction
    | status | res | olen | eaddr | ccount => rfl

/-- R55: after power-on STATUS reads 0. -/
theorem statusWord_powerOn (cfg : Config) : (State.powerOn cfg).statusWord = 0 := by
  simp [State.statusWord, State.powerOn, State.busy, flagBit]

/-- R55: after power-on every offset reads 0. -/
theorem readOffset_powerOn (cfg : Config) (off : Nat) : (State.powerOn cfg).readOffset off = 0 := by
  unfold State.readOffset
  cases regAt off with
  | none => rfl
  | some r =>
    cases r with
    | status => exact statusWord_powerOn cfg
    | cmd | arg | res | ilen | olen | eaddr | ccount => rfl

/-- R32, R240: with nothing pending a write to CMD is accepted. -/
theorem writeReg_cmd {s : State} (h : s.pending = none) (v : Word) : s.writeReg .cmd v = .ok { s with pending := some v } := by
  simp [State.writeReg, State.busy, h]

/-- R40, R240: with nothing pending ARG holds what is written. -/
theorem writeReg_arg {s : State} (h : s.pending = none) (v : Word) : s.writeReg .arg v = .ok { s with arg := v } := by
  simp [State.writeReg, State.busy, h]

/-- R42, R240: with nothing pending ILEN holds what is written. -/
theorem writeReg_ilen {s : State} (h : s.pending = none) (v : Word) : s.writeReg .ilen v = .ok { s with ilen := v } := by
  simp [State.writeReg, State.busy, h]

/-- Settles O49: an access inside the REG space reads or writes its offset, and the register there is found by `regAt`. -/
theorem hostRegisterMap : Obligations.HostRegisterMap := by
  refine ⟨fun s off ha hl => ?_, fun s off v ha hl hcmd harg hilen => ?_, fun s v hp => ⟨?_, ?_, ?_⟩, fun cfg off ha hl => ?_⟩
  · rw [hostRead_reg s ha hl, readOffset_eq]
  · rw [hostWrite_reg s v ha hl, writeOffset_ignored s v hcmd harg hilen]
  · exact (hostWrite_regAccess s .cmd v).trans (writeReg_cmd hp v)
  · exact (hostWrite_regAccess s .arg v).trans (writeReg_arg hp v)
  · exact (hostWrite_regAccess s .ilen v).trans (writeReg_ilen hp v)
  · exact (hostRead_reg (State.powerOn cfg) ha hl).trans (by rw [readOffset_powerOn])

/-! Steps of the host -/

/-- Settles O52: a step of the host is one of those `hostStep_next` lists, each but the first with BUSY = 0. -/
theorem hostStepsChangeOnlyWhatTheHostMayWrite : Obligations.HostStepsChangeOnlyWhatTheHostMayWrite := by
  intro s t hturn h
  rw [step_of_host hturn] at h
  obtain ⟨hs, v, a, rfl | ⟨hb, hw⟩⟩ := hostStep_next h
  · exact ⟨rfl, fun _ => rfl, rfl, rfl⟩
  · have hidle : s.busy = false := hb
    rcases hw with rfl | rfl | rfl | ⟨-, rfl⟩ <;> exact ⟨rfl, by simp [hidle], rfl, rfl⟩

/-- R86: with moves left of its line the host makes the next one. -/
theorem hostStep_move {s : State} {m : HostMove} {ms : List HostMove} (hf : s.host.failed = false) (ht : s.host.todo = m :: ms) :
    hostStep s = hostMove { s with host := { s.host with todo := ms } } m := by
  simp [hostStep, hf, ht]

/-- Past the end of the schedule an idle block leaves the turn to the host. -/
theorem step_of_idle {s : State} (hsched : s.sched = []) (hp : s.pending = none) : step s = hostStep s := by
  have hturn : s.turn = .host := by simp [State.turn, hsched, State.busy, hp]
  rw [step_of_host hturn, State.endTurn_of_sched_nil hsched]

/-- Past the end of the schedule the block performs a pending word. -/
theorem step_of_issued {s : State} {i : Instr} (hsched : s.sched = []) (hp : s.pending = some (encode i)) : step s = exec i s := by
  have hturn : s.turn = .block := by simp [State.turn, hsched, State.busy, hp]
  rw [step_of_pending hturn hp, State.endTurn_of_sched_nil hsched, perform_of_command (decode_encode i)]

/-- R32: the host's write of a command word with nothing pending makes it pending. -/
theorem hostMove_issue {s : State} (i : Instr) (hp : s.pending = none) :
    hostMove s (.write (regAccess s.cfg .cmd) (encode i)) = .next { s with pending := some (encode i) } := by
  simp only [hostMove, hostWrite_regAccess, writeReg_cmd hp, ofAccess]

/-- R86, R87: with BUSY = 0 `poll` ends, its STATUS in `s`. -/
theorem hostMove_poll {s : State} (hp : s.pending = none) :
    hostMove s .poll = .next { s with host := s.host.assign statusVar (.num s.statusWord.toNat) } := by
  have hb : s.statusWord.getLsbD 16 = false := by rw [statusWord_busy, State.busy, hp]; rfl
  simp only [hostMove, hostRead_regAccess, ofAccess, State.readReg, hb, Bool.false_eq_true, if_false]

/-- R86: a variable holds what was assigned to it. -/
theorem lookupVar_assignVar (vars : List (HostVar × HostVal)) (x : HostVar) (v : HostVal) :
    lookupVar (assignVar vars x v) x = some v := by
  induction vars with
  | nil => simp [assignVar, lookupVar]
  | cons p vars ih =>
    obtain ⟨y, w⟩ := p
    unfold assignVar
    split
    · simp [lookupVar]
    · split
      · simp [lookupVar]
      · next hne => simpa [lookupVar, hne] using ih

/-! A mnemonic line of the host's program, step by step -/

/-- The host has read the line of `i` and has its two accesses to make. -/
def State.lineRead (s : State) (i : Instr) : State :=
  { s with host := { s.host with line := s.host.line + 1, todo := commandMoves s.cfg i, reads := s.host.reads + 1 } }

/-- The host has written the word of `i` and waits for it at the next line. -/
def State.issued (s : State) (i : Instr) : State :=
  { s with
    pending := some (encode i)
    host := { s.host with line := s.host.line + 1, todo := [.poll], reads := s.host.reads + 1 } }

/-- The host, with nothing left to do of its line, has read STATUS into `s`. -/
def State.polled (t : State) : State :=
  { t with host := { t.host with todo := [] }.assign statusVar (.num t.statusWord.toNat) }

section
variable {s : State} (hsched : s.sched = []) (hp : s.pending = none) (hf : s.host.failed = false)
include hsched hp hf

theorem step_readCommandLine {i : Instr} (ht : s.host.todo = []) (hl : s.host.prog[s.host.line]? = some (.command i)) :
    step s = .next (s.lineRead i) :=
  (step_of_idle hsched hp).trans (hostStep_readLine hf ht hl)

theorem step_issueCommand (i : Instr) : step (s.lineRead i) = .next (s.issued i) := by
  have hidle : step (s.lineRead i) = hostStep (s.lineRead i) := step_of_idle hsched hp
  have hmove : hostStep (s.lineRead i) = _ := hostStep_move hf rfl
  rw [hidle, hmove]
  exact hostMove_issue i hp

theorem step_poll (ht : s.host.todo = [.poll]) : step s = .next s.polled := by
  rw [step_of_idle hsched hp, hostStep_move hf ht]
  exact hostMove_poll hp

end

theorem step_performIssued {s : State} (i : Instr) (hsched : s.sched = []) : step (s.issued i) = exec i (s.issued i) :=
  step_of_issued (s := s.issued i) hsched rfl

/-- Settles O53: the line is read, the word written, the command performed and STATUS read, one step each. -/
theorem issuedCommandIsPerformedAndAwaited : Obligations.IssuedCommandIsPerformedAndAwaited := by
  intro s i hsched hp hf ht hl
  obtain ⟨t, hexec, htp, -, hthost, htsched⟩ := everyCommandEndsInOneStep i (s.issued i)
  have hperform : step (s.issued i) = .next t := (step_performIssued i hsched).trans hexec
  have hpoll : step t = .next t.polled :=
    step_poll (htsched.trans hsched) htp (by rw [hthost]; exact hf) (by rw [hthost]; rfl)
  refine ⟨t, t.polled, hexec, ?_, rfl, rfl, ?_, lookupVar_assignVar .., ?_⟩
  · rw [core_run_next (step_readCommandLine hsched hp hf ht hl), core_run_next (step_issueCommand hsched hp hf i),
      core_run_next hperform, core_run_next hpoll]
    rfl
  · exact congrArg HostAgent.line hthost
  · exact congrArg Option.isSome htp

end Sys2Proof.Machine
end

section
/-! ## The memory family: OBUF and OLEN, the host's contract, IBUF bytes (20_memory.md) -/

namespace Sys2Proof.Machine

/-! What a command that succeeds has read and written -/

/-- R36, R207: a command that reads CR and succeeds has read it. -/
theorem needChunk_of_ok {s : State} {k : Chunk → State} (h : (needChunk s k).err = 0) :
    s.crv = true ∧ needChunk s k = k s.cr := by
  rcases needChunk_cases s k with hk | ⟨-, hk⟩
  · exact hk
  · rw [hk] at h
    exact absurd h (raise_err_ne_zero _ _ _)

/-- R37, R207: a command that reads CS and succeeds has read it. -/
theorem needContainer_of_ok {s : State} {k : List Chunk → State} (h : (needContainer s k).err = 0) :
    s.csv = true ∧ needContainer s k = k s.cs := by
  rcases needContainer_cases s k with hk | ⟨-, hk⟩
  · exact hk
  · rw [hk] at h
    exact absurd h (raise_err_ne_zero _ _ _)

/-- R8: P_OBUF_BYTES is a 32-bit number. -/
theorem Config.pObufBytes_lt {cfg : Config} (h : cfg.wf = true) : cfg.pObufBytes < 2 ^ 32 := by
  simp only [Config.wf, Config.bufferSizeWf, Bool.and_eq_true, decide_eq_true_eq] at h
  omega

/-- R63: between `s` and `t` a byte sequence went to OBUF from offset 0 on, and OLEN is its length. -/
def WritesOutput (s t : State) : Prop := ∃ b, t.obuf = s.obuf.writeBytes 0 b ∧ t.olen.toNat = b.length

/-- R63, R206 (b): a successful output of all its bytes. The length fits in OLEN because it fits in OBUF (R8). -/
theorem deliver_writesOutput {s : State} {n : Nat} {b : List Byte} (h : s.Inv) (hn : n = b.length)
    (hok : (deliver s n b).err = 0) : WritesOutput s (deliver s n b) := by
  rcases deliver_cases s n b with ⟨hfit, hd⟩ | ⟨-, hd⟩ <;> rw [hd] at hok ⊢
  · have hlt : n < 2 ^ 32 := hfit.trans_lt (Config.pObufBytes_lt h.cfgWf)
    exact ⟨b, rfl, (Nat.mod_eq_of_lt hlt).trans hn⟩
  · exact absurd hok (raise_err_ne_zero _ _ _)

/-- R63: each of the three commands, when it succeeds, writes one output. -/
theorem outputWriters_writesOutput {i : Instr} {s t : State} (h : s.Inv) (ht : exec i s = .next t) (hi : i ∈ outputWriters)
    (hok : t.err = 0) : WritesOutput s t := by
  cases i with
  | chunkAsBytes =>
    cases ht
    obtain ⟨-, hk⟩ := needChunk_of_ok hok
    rw [hk] at hok ⊢
    exact deliver_writesOutput h rfl hok
  | chunkData =>
    cases ht
    obtain ⟨hcrv, hk⟩ := needChunk_of_ok hok
    rw [hk] at hok ⊢
    exact deliver_writesOutput h (h.heldChunk hcrv).length_eq hok
  | pngAsBytes =>
    cases ht
    obtain ⟨-, hk⟩ := needContainer_of_ok hok
    rw [hk] at hok ⊢
    exact deliver_writesOutput h rfl hok
  | _ => exact absurd hi (by decide)

/-- R63: an output leaves the cells at and above OLEN alone. -/
theorem WritesOutput.read?_of_olen_le {s t : State} (h : WritesOutput s t) {a : Nat} (ha : t.olen.toNat ≤ a) :
    t.obuf.read? a = s.obuf.read? a := by
  obtain ⟨b, hobuf, holen⟩ := h
  rw [hobuf, Memory.read?_writeBytes, if_neg (by omega)]

/-- R63: an output writes every cell below OLEN. -/
theorem WritesOutput.read?_ne_none_of_lt {s t : State} (h : WritesOutput s t) {a : Nat} (ha : a < t.olen.toNat) :
    t.obuf.read? a ≠ none := by
  obtain ⟨b, hobuf, holen⟩ := h
  rw [hobuf, Memory.read?_writeBytes, if_pos (by omega), Ne, List.getElem?_eq_none_iff]
  omega

/-- R63: any other command, and an error, leaves OBUF and (SRST aside) OLEN alone. -/
theorem exec_keeps_output {i : Instr} {s t : State} (ht : exec i s = .next t) (hi : i ∉ outputWriters ∨ t.err ≠ 0) :
    t.obuf = s.obuf ∧ (i ≠ .srst → t.olen = s.olen) := by
  rcases exec_ends ht with ⟨e, info, -, rfl⟩ | ⟨s', rfl, -, -, -, -, -, -, -, -, hout⟩
  · exact ⟨rfl, fun _ => rfl⟩
  · rcases hi with hi | he
    · exact hout hi
    · exact absurd rfl he

/-- Settles O20: a command writes OBUF and OLEN as one output of R63 or not at all. -/
theorem onlyThreeCommandsWriteTheOutputBuffer : Obligations.OnlyThreeCommandsWriteTheOutputBuffer := by
  intro i s t h ht
  refine ⟨fun hi => ?_, fun hi hok a => ?_⟩
  · obtain ⟨hobuf, holen⟩ := exec_keeps_output ht hi
    exact ⟨fun a => by rw [hobuf], holen⟩
  · have hout := outputWriters_writesOutput h ht hi hok
    exact ⟨hout.read?_of_olen_le, hout.read?_ne_none_of_lt⟩

/-! Which host accesses are answered -/

/-- R68: a host read is answered exactly inside the contract. -/
theorem hostRead_answered_iff (a : Access) (s : State) : (∃ w, hostRead a s = .ok w) ↔ accessRefusal s.cfg a false = none := by
  unfold hostRead
  cases accessRefusal s.cfg a false with
  | some r => simp
  | none => cases a.space <;> simp

/-- R240: while BUSY = 1 there is no write to CMD, ARG or ILEN, and every other register write is answered. -/
theorem writeReg_answered_iff (s : State) (r : HostReg) (v : Word) :
    (∃ t, s.writeReg r v = .ok t) ↔ (s.busy = true → r ≠ .cmd ∧ r ≠ .arg ∧ r ≠ .ilen) := by
  unfold State.writeReg
  cases r with
  | cmd | arg | ilen => cases s.busy <;> simp
  | status | res | olen | eaddr | ccount => simp

/-- R240, by the offset of the register. -/
theorem writeOffset_answered_iff (s : State) (off : Nat) (v : Word) :
    (∃ t, s.writeOffset off v = .ok t) ↔ (s.busy = true → off ≠ 0x00 ∧ off ≠ 0x08 ∧ off ≠ 0x10) := by
  unfold State.writeOffset
  cases h : regAt off with
  | some r =>
    cases offset_of_regAt h
    exact (writeReg_answered_iff s r v).trans (by cases r <;> simp [HostReg.offset])
  | none =>
    have hne := ne_offset_of_regAt_none h
    exact iff_of_true ⟨s, rfl⟩ fun _ => ⟨hne .cmd, hne .arg, hne .ilen⟩

/-- R68: a REG write is answered exactly inside the contract and where the write at its offset is. -/
theorem hostWrite_reg_answered_iff (s : State) (addr bits : Nat) (v : Word) :
    (∃ t, hostWrite ⟨.reg, addr, bits⟩ v s = .ok t) ↔
      accessRefusal s.cfg ⟨.reg, addr, bits⟩ true = none ∧ ∃ t, s.writeOffset (addr - s.cfg.pBase) v = .ok t := by
  unfold hostWrite
  cases accessRefusal s.cfg ⟨.reg, addr, bits⟩ true <;> simp

/-- R240: a write of an IBUF cell is answered while BUSY = 0 only. -/
theorem writeIbuf_ok_iff {s t : State} {a : Nat} {b : Byte} :
    s.writeIbuf a b = .ok t ↔ s.busy = false ∧ t = { s with ibuf := s.ibuf.write a b } := by
  unfold State.writeIbuf
  cases s.busy <;> simp [eq_comm]

/-- R62, R68, R240: an IBUF write is answered exactly as a byte write inside IBUF while BUSY = 0, and writes its cell. -/
theorem hostWrite_ibuf_ok_iff {s t : State} {addr bits : Nat} {v : Word} :
    hostWrite ⟨.ibuf, addr, bits⟩ v s = .ok t ↔
      bits = 8 ∧ addr < s.cfg.pIbufBytes ∧ s.busy = false ∧ t = { s with ibuf := s.ibuf.write addr (v.setWidth 8) } := by
  have hin := accessRefusal_eq_none s.cfg ⟨.ibuf, addr, bits⟩ true
  simp only [reduceCtorEq, false_and, true_and, false_or, or_false] at hin
  rw [← and_assoc, ← hin, ← writeIbuf_ok_iff]
  unfold hostWrite
  cases accessRefusal s.cfg ⟨.ibuf, addr, bits⟩ true <;> simp

/-- R68: no OBUF write is answered. -/
theorem hostWrite_obuf (s : State) (addr bits : Nat) (v : Word) :
    hostWrite ⟨.obuf, addr, bits⟩ v s = .error .hostObufWrite := rfl

/-- Settles O50: a read is answered inside the contract; a write by its space, with R240's own conditions on REG and IBUF. -/
theorem hostAccessContract : Obligations.HostAccessContract := by
  rintro s ⟨sp, addr, bits⟩
  refine ⟨?_, fun v => ?_⟩
  · rw [hostRead_answered_iff, accessRefusal_eq_none]
    simp only [true_and]
  · cases sp with
    | reg =>
      rw [hostWrite_reg_answered_iff, accessRefusal_eq_none, writeOffset_answered_iff]
      simp only [reduceCtorEq, false_and, true_and, or_false, and_assoc]
      refine and_congr_right fun _ => and_congr_right fun hlo => and_congr_right fun _ => and_congr_right fun _ =>
        imp_congr_right fun _ => ?_
      omega
    | ibuf => simp [hostWrite_ibuf_ok_iff]
    | obuf => simp [hostWrite_obuf]

/-! Bytes of IBUF -/

/-- R62: a host read of an IBUF byte. -/
theorem hostRead_ibufAccess {s : State} {a : Nat} (ha : a < s.cfg.pIbufBytes) :
    hostRead (ibufAccess a) s = .ok ((s.ibufByte a).setWidth 32) := by
  have hin : accessRefusal s.cfg (ibufAccess a) false = none := (accessRefusal_eq_none ..).2 (.inr (.inl ⟨rfl, rfl, ha⟩))
  simp only [hostRead, hin]
  rfl

/-- R62: a byte of IBUF after a write of one cell. -/
theorem ibufByte_setIbuf_write (s : State) (a : Nat) (b : Byte) (x : Nat) :
    ({ s with ibuf := s.ibuf.write a b } : State).ibufByte x = if x = a then b else s.ibufByte x := by
  simp only [State.ibufByte, Memory.read?_write]
  split <;> rfl

/-- Settles O51: an answered byte write is a write of one cell of IBUF. -/
theorem hostByteWriteIsRead : Obligations.HostByteWriteIsRead := by
  intro s t a v h
  obtain ⟨-, ha, hidle, rfl⟩ := hostWrite_ibuf_ok_iff.1 h
  refine ⟨ibufByte_setIbuf_write s a _, rfl, ?_, ?_⟩
  · rw [hostRead_ibufAccess, ibufByte_setIbuf_write, if_pos rfl]
    exact ha
  · refine hostWrite_ibuf_ok_iff.2 ⟨rfl, ha, hidle, ?_⟩
    rw [Memory.write_write]

end Sys2Proof.Machine
end

section
/-! ## The encoding family: the decoder, the illegal words and the lines of a host program (30_encoding.md) -/

namespace Sys2Proof.Machine

/-! The decoder (R81 to R83) -/

/-- Settles O6: the decoder reads back every encoded command, and a word that decodes is its command's word. -/
theorem decodeAndEncodeAgree : Obligations.DecodeAndEncodeAgree :=
  ⟨fun i _ => decode_encode i, fun _ _ => eq_encode_of_decode⟩

/-- Settles O7: each written-out word of a command is `encode` of it; the decoder rejects the two others. -/
theorem writtenOutWordsDecode : Obligations.WrittenOutWordsDecode :=
  ⟨decode_encode .srst, decode_encode .ctFromString, decode_encode .ctIsValid, decode_encode .crcCompute, decode_encode .chunkParse,
    decode_encode .pngAsBytes, by decide, by decide⟩

/-- An opcode has no row when it differs from the opcode of every row. -/
theorem rowOf_eq_none_iff {op : Byte} {rows : List (Byte × Instr)} : rowOf op rows = none ↔ ∀ r ∈ rows, op ≠ r.1 := by
  induction rows with
  | nil => simp [rowOf]
  | cons r rows ih =>
    obtain ⟨o, i⟩ := r
    by_cases h : op = o <;> simp [rowOf, h, ih]

/-- The opcodes R83 lists: 0 and the gaps between the groups of R82. -/
def UnassignedOpcode (op : Nat) : Prop :=
  op = 0 ∨ (0x02 ≤ op ∧ op ≤ 0x0F) ∨ (0x18 ≤ op ∧ op ≤ 0x1F) ∨ (0x21 ≤ op ∧ op ≤ 0x2F) ∨ (0x37 ≤ op ∧ op ≤ 0x3F) ∨
    (0x45 ≤ op ∧ op ≤ 0xFF)

/-- R82, R83: the opcodes without a row. -/
theorem rowOf_opcodeMap_eq_none_iff (op : Byte) : rowOf op opcodeMap = none ↔ UnassignedOpcode op.toNat := by
  simp only [rowOf_eq_none_iff, opcodeMap, opcodesControlAndType, opcodesDataAndStream, List.cons_append, List.nil_append,
    List.forall_mem_cons, List.not_mem_nil, false_implies, implies_true, and_true, UnassignedOpcode]
  bv_omega

/-- R80: the check of the field `zero` is the check of bits [31:8]. -/
theorem zeroFieldWf_iff {w : Word} : zeroFieldWf w = true ↔ w.extractLsb' 8 24 = 0 := decide_eq_true_iff

/-- R81: a word is illegal for a bit of its field `zero` or for an opcode without a row. -/
theorem decode_illegal_iff (w : Word) :
    (∃ why, decode w = .illegal why) ↔ w.extractLsb' 8 24 ≠ 0 ∨ rowOf (w.extractLsb' 0 8) opcodeMap = none := by
  rw [ne_eq, ← zeroFieldWf_iff]
  unfold decode
  cases zeroFieldWf w with
  | false => simp
  | true => cases rowOf (w.extractLsb' 0 8) opcodeMap <;> simp

/-- R80: a word whose field `zero` is zero is 0 when its opcode is. -/
theorem eq_zero_iff_opcode {w : Word} (hz : w.extractLsb' 8 24 = 0) : w = 0 ↔ (w.extractLsb' 0 8).toNat = 0 := by
  have hw := eq_setWidth_of_zeroFieldWf (zeroFieldWf_iff.2 hz)
  constructor
  · rintro rfl; rfl
  · intro h
    have hop : w.extractLsb' 0 8 = 0 := BitVec.eq_of_toNat_eq h
    rw [hw, hop]
    rfl

/-- Settles O8: a word whose field `zero` is zero is judged by its opcode; performing an illegal word is the report. -/
theorem illegalWordsAndTheirReport : Obligations.IllegalWordsAndTheirReport := by
  refine ⟨fun w => ?_, fun w why s h => ⟨_, perform_of_illegal h s, rfl⟩⟩
  rw [decode_illegal_iff, rowOf_opcodeMap_eq_none_iff]
  by_cases hz : w.extractLsb' 8 24 = 0
  · simp only [eq_zero_iff_opcode hz, exists_eq_left, UnassignedOpcode]
  · simp only [ne_eq, hz, not_false_eq_true, true_or]

/-! The operands of a line (R86) -/

/-- A natural number that fits is its word, with no draw. -/
theorem toWord_natCast (draw place : Nat) {v : Nat} (hv : v < 2 ^ 32) :
    (HostVal.num v).toWord draw place 32 = BitVec.ofNat 32 v := by
  have hfits : (0 : Int) ≤ v ∧ (v : Int) < 2 ^ 32 := by omega
  rw [HostVal.toWord, HostVal.toInt, if_pos hfits, BitVec.ofInt_natCast]

/-- A variable that is set reads as its value. -/
theorem readVar_of_lookupVar {vars : List (HostVar × HostVal)} {x : HostVar} {v : HostVal} (h : lookupVar vars x = some v)
    (draw place : Nat) : readVar vars draw place x = v := by
  simp only [readVar, h]

/-- The bytes of a byte list, or of a variable that holds them. -/
theorem HostAgent.bytesOf_eq {h : HostAgent} {x : HostTerm} {bs : List Byte} (place : Nat)
    (hx : x = .bytes bs ∨ ∃ v, x = .var v ∧ lookupVar h.vars v = some (.bytes bs)) : h.bytesOf place x = bs := by
  rcases hx with rfl | ⟨v, rfl, hv⟩
  · rfl
  · simp only [HostAgent.bytesOf, HostAgent.eval, evalTerm, readVar_of_lookupVar hv, HostVal.toBytes]

/-- Two numbers, or two byte sequences: the values R86 says how to compare. -/
def HostVal.SameKind (v w : HostVal) : Prop := (∃ a b, v = .num a ∧ w = .num b) ∨ ∃ a b, v = .bytes a ∧ w = .bytes b

/-- Values of one kind are compared as they are, with no draw. -/
theorem HostVal.SameKind.equals {v w : HostVal} (hk : v.SameKind w) (draw place : Nat) :
    v.equals draw place w = decide (v = w) := by
  rcases hk with ⟨a, b, rfl, rfl⟩ | ⟨a, b, rfl, rfl⟩ <;> simp [HostVal.equals]

/-- A label that stands on one line leads there. -/
theorem HostAgent.goto_line {h : HostAgent} {k : HostLabel} {i : Nat} (hi : labelLines k 0 h.prog = [i]) : (h.goto k).line = i := by
  simp only [HostAgent.goto, hi]

/-! The accesses of a line (R86, R87) -/

/-- `wrb`: the k-th access writes the k-th byte at the k-th offset. -/
theorem wrbMoves_eq_map (a : Nat) (bs : List Byte) :
    wrbMoves a bs = (List.range bs.length).map fun k => .write (ibufAccess (a + k)) ((bs.getD k 0).setWidth 32) := by
  induction bs generalizing a with
  | nil => rfl
  | cons b bs ih =>
    rw [wrbMoves, ih, List.length_cons, List.range_succ_eq_map]
    simp [Function.comp_def, Nat.add_assoc, Nat.add_comm 1]

/-- `rdb`: the k-th access reads the byte at the k-th offset. -/
theorem rdbMoves_eq_map (x : HostVar) (a n : Nat) :
    rdbMoves x a n = (List.range n).map fun k => .readByte (obufAccess (a + k)) x := by
  induction n generalizing a with
  | zero => rfl
  | succ n ih =>
    rw [rdbMoves, ih, List.range_succ_eq_map]
    simp [Function.comp_def, Nat.add_assoc, Nat.add_comm 1]

/-- `load`: the bytes from offset 0 on, then their number in ILEN. -/
theorem loadMoves_eq (cfg : Config) (draw : Nat) {bs : List Byte} (h : bs.length < 2 ^ 32) :
    loadMoves cfg draw bs = ((List.range bs.length).map fun k => .write (ibufAccess k) ((bs.getD k 0).setWidth 32)) ++
      [.write (regAccess cfg .ilen) (BitVec.ofNat 32 bs.length)] := by
  simp only [loadMoves, wrbMoves_eq_map, Nat.zero_add, toWord_natCast _ _ h]

/-! Reading a line -/

section
variable (h : HostAgent) (cfg : Config)

/-- `wr` of a literal that fits. -/
theorem HostAgent.readLine_wr_todo (r : HostReg) {v : Nat} (hv : v < 2 ^ 32) :
    (h.readLine cfg (.wr r (.lit v))).todo = [.write (regAccess cfg r) (BitVec.ofNat 32 v)] := by
  rw [← toWord_natCast h.reads 1 hv]
  rfl

/-- `settype_raw` of a literal that fits. -/
theorem HostAgent.readLine_settypeRaw_todo {v : Nat} (hv : v < 2 ^ 32) :
    (h.readLine cfg (.settypeRaw (.lit v))).todo =
      .write (regAccess cfg .arg) (BitVec.ofNat 32 v) :: commandMoves cfg .ctFromBytes := by
  rw [← toWord_natCast h.reads 1 hv]
  rfl

/-- `wrb` of a byte list, or of a variable that holds one. -/
theorem HostAgent.readLine_wrb_todo (a : Nat) {bs : List Byte} {x : HostTerm}
    (hx : x = .bytes bs ∨ ∃ v, x = .var v ∧ lookupVar h.vars v = some (.bytes bs)) :
    (h.readLine cfg (.wrb (.lit a) x)).todo = wrbMoves a bs := by
  rw [← HostAgent.bytesOf_eq 3 hx]
  rfl

variable {h} {x y : HostVar} {v w : HostVal} (hx : lookupVar h.vars x = some v) (hy : lookupVar h.vars y = some w)
  (hk : v.SameKind w)
include hx hy hk

/-- The test of a branch on two variables of one kind. -/
theorem HostAgent.equal_var : h.equal (.var x) (.var y) = decide (v = w) := by
  simp only [HostAgent.equal, HostAgent.eval, evalTerm, readVar_of_lookupVar hx, readVar_of_lookupVar hy, hk.equals]

/-- `beq` to a label on one line. -/
theorem HostAgent.readLine_beq_line {k : HostLabel} {i : Nat} (hi : labelLines k 0 h.prog = [i]) :
    (h.readLine cfg (.beq (.var x) (.var y) k)).line = if v = w then i else h.line + 1 := by
  simp only [HostAgent.readLine, HostAgent.equal_var hx hy hk, decide_eq_true_eq, apply_ite HostAgent.line,
    HostAgent.goto_line hi, HostAgent.moves]

/-- `bne` to a label on one line. -/
theorem HostAgent.readLine_bne_line {k : HostLabel} {i : Nat} (hi : labelLines k 0 h.prog = [i]) :
    (h.readLine cfg (.bne (.var x) (.var y) k)).line = if v = w then h.line + 1 else i := by
  simp only [HostAgent.readLine, HostAgent.equal_var hx hy hk, decide_eq_true_eq, apply_ite HostAgent.line,
    HostAgent.goto_line hi, HostAgent.moves]

end

/-- R86: the host's turn reads its next line in one step, which changes nothing but the host agent and the schedule. -/
theorem step_readLine {s : State} {l : HostLine} (hturn : s.turn = .host) (hf : s.host.failed = false) (ht : s.host.todo = [])
    (hl : s.host.prog[s.host.line]? = some l) :
    step s = .next { s.endTurn with host := (s.host.readLine s.cfg l).nextDraw } :=
  (step_of_host hturn).trans (hostStep_readLine hf ht hl)

/-- Going to a label leaves the program as it is. -/
theorem HostAgent.goto_prog (h : HostAgent) (l : HostLabel) : (h.goto l).prog = h.prog := by
  unfold HostAgent.goto
  split <;> rfl

/-- Reading a line leaves the program as it is. -/
theorem HostAgent.readLine_prog (h : HostAgent) (cfg : Config) (l : HostLine) : (h.readLine cfg l).prog = h.prog := by
  cases l with
  | b l => exact h.goto_prog l
  | beq x y l | bne x y l => simp [HostAgent.readLine, apply_ite HostAgent.prog, HostAgent.goto_prog, HostAgent.moves]
  | _ => rfl

/-- Settles O56: the step reads the line (`step_readLine`), whose moves are its accesses; a branch leads where its test says. -/
theorem hostLinesStandForTheirAccesses : Obligations.HostLinesStandForTheirAccesses := by
  intro s l hturn hf ht hl
  refine ⟨_, step_readLine hturn hf ht hl, rfl, rfl, s.host.readLine_prog s.cfg l, ?wr, ?rd, ?wrb, ?rdb, ?command, ?load, ?settypeRaw,
    ?check, ?branch⟩
  case wr =>
    rintro r v rfl hv
    exact s.host.readLine_wr_todo s.cfg r hv
  case rd => rintro r x rfl; rfl
  case wrb =>
    rintro a bs x rfl hx
    exact (s.host.readLine_wrb_todo s.cfg a hx).trans (wrbMoves_eq_map a bs)
  case rdb =>
    rintro a n x rfl
    exact ⟨lookupVar_assignVar .., rdbMoves_eq_map x a n⟩
  case command => rintro i rfl; rfl
  case load =>
    rintro bs hlen (rfl | rfl)
    · rw [if_neg (nofun), List.append_nil]
      exact loadMoves_eq s.cfg s.host.reads hlen
    · rw [if_pos rfl]
      exact congrArg (· ++ commandMoves s.cfg .ctFromString) (loadMoves_eq s.cfg s.host.reads hlen)
  case settypeRaw =>
    rintro v rfl hv
    exact s.host.readLine_settypeRaw_todo s.cfg hv
  case check => rintro rfl; rfl
  case branch =>
    intro x y v w k i hx hy hk hi
    constructor
    · rintro rfl
      exact HostAgent.readLine_beq_line s.cfg hx hy hk hi
    · rintro rfl
      exact HostAgent.readLine_bne_line s.cfg hx hy hk hi

end Sys2Proof.Machine
end

section
/-! ## The chunk type family: setting TR and its queries (41_chunk_type.md) -/

namespace Sys2Proof.Machine

/-! What a command does once the operands it needs are there -/

/-- R35, R207: with TRV = 1 TR is read. -/
theorem needType_of_trv {s : State} (h : s.trv = true) (k : Quad → State) : needType s k = k s.tr := by
  simp [needType, h]

/-- R35, R207: with TRV = 0 the report is NoType. -/
theorem needType_of_empty {s : State} (h : s.trv = false) (k : Quad → State) : needType s k = raise .noType 0 s := by
  simp [needType, h]

/-- R42: an input within the capacity is read. -/
theorem needInput_of_le {s : State} (h : s.ilen.toNat ≤ s.cfg.pIbufBytes) (k : List Byte → State) : needInput s k = k s.input :=
  if_neg (Nat.not_lt.2 h)

/-- R206 (a): an input beyond the capacity is reported. -/
theorem needInput_of_lt {s : State} (h : s.cfg.pIbufBytes < s.ilen.toNat) (k : List Byte → State) :
    needInput s k = raise .capacityExceeded 0 s :=
  if_pos h

/-- R204: a command that comes to `complete` completes with the record its own writes leave. -/
theorem completes_of_exec {i : Instr} {s s' : State} (h : exec i s = .next (complete s')) : Completes i s s'.record :=
  ⟨_, h, rfl⟩

/-- R203: a command that comes to `raise` on the state it started in raises that error. -/
theorem raises_of_exec {i : Instr} {s : State} {e : ErrKind} {info : Word} (h : exec i s = .next (raise e info s)) :
    Raises i s e info :=
  ⟨_, h, rfl⟩

/-! The big-endian readings of R12 -/

/-- `x` before `y` in the big-endian order. -/
theorem append_toNat_eq_add {m n : Nat} (x : BitVec m) (y : BitVec n) : (x ++ y).toNat = x.toNat * 2 ^ n + y.toNat := by
  rw [BitVec.toNat_append, ← Nat.shiftLeft_add_eq_or_of_lt y.isLt, Nat.shiftLeft_eq]

/-- R12: the big-endian reading as a number. -/
theorem be32_toNat (q : Quad) :
    (be32 q).toNat = q.b0.toNat * 2 ^ 24 + q.b1.toNat * 2 ^ 16 + q.b2.toNat * 2 ^ 8 + q.b3.toNat := by
  unfold be32
  iterate 3 rw [append_toNat_eq_add]
  omega

/-- R12: the big-endian reading as R103 packs it. -/
theorem be32_eq_ofNat (q : Quad) :
    be32 q = BitVec.ofNat 32 (q.b0.toNat * 2 ^ 24 + q.b1.toNat * 2 ^ 16 + q.b2.toNat * 2 ^ 8 + q.b3.toNat) := by
  rw [← be32_toNat, BitVec.ofNat_toNat, BitVec.setWidth_eq]

/-- R12: reading back the four bytes of a word. -/
theorem be32_u32be (v : Word) : be32 (u32be v) = v := by
  apply BitVec.eq_of_toNat_eq
  simp only [be32_toNat, u32be, BitVec.extractLsb'_toNat, Nat.shiftRight_eq_div_pow]
  omega

/-- R12: the four bytes of a word that was read from four bytes. -/
theorem u32be_be32 (q : Quad) : u32be (be32 q) = q := by
  obtain ⟨b0, b1, b2, b3⟩ := q
  simp only [u32be, Quad.mk.injEq, BitVec.toNat_eq, BitVec.extractLsb'_toNat, Nat.shiftRight_eq_div_pow, be32_toNat]
  omega

/-! The letters and the case bit of R15 -/

/-- R15: `isAlpha` is the range check on the numeric code. -/
theorem isAlpha_iff (b : Byte) : isAlpha b = true ↔ AsciiLetter b := by
  simp [isAlpha, isUpperAlpha, BitVec.le_def]

/-- R102, R111: four letters, byte by byte. -/
theorem Quad.allAlpha_iff (q : Quad) :
    q.allAlpha = true ↔ AsciiLetter q.b0 ∧ AsciiLetter q.b1 ∧ AsciiLetter q.b2 ∧ AsciiLetter q.b3 := by
  simp only [Quad.allAlpha, Bool.and_eq_true, isAlpha_iff, and_assoc]

/-- R15: the mask 0x20 is the case bit alone. -/
theorem and_0x20_eq (b : Byte) : b &&& 0x20 = if bit5 b then 0x20 else 0 := BitVec.and_twoPow b 5

/-- R15: the case bit is set exactly when the mask 0x20 finds it. -/
theorem bit5_iff (b : Byte) : bit5 b = true ↔ b &&& 0x20 ≠ 0 := by
  rw [and_0x20_eq]
  cases bit5 b <;> simp

/-- R15: the case bit is clear exactly when the mask 0x20 does not find it. -/
theorem not_bit5_iff (b : Byte) : (!bit5 b) = true ↔ b &&& 0x20 = 0 := by
  rw [Bool.not_eq_true', ← Bool.not_eq_true, bit5_iff, not_ne_iff]

/-- R10: a Boolean result is 1 exactly when its property holds. -/
theorem zext32_of_iff {b : Bool} {p : Prop} [Decidable p] (h : b = true ↔ p) : zext32 b = if p then 1 else 0 :=
  if_congr h rfl rfl

/-! The properties of a type (R104, R111) -/

theorem critical_iff (t : Quad) : critical t = true ↔ t.b0 &&& 0x20 = 0 := not_bit5_iff t.b0

theorem isPublic_iff (t : Quad) : isPublic t = true ↔ t.b1 &&& 0x20 = 0 := not_bit5_iff t.b1

theorem reservedBitValid_iff (t : Quad) : reservedBitValid t = true ↔ t.b2 &&& 0x20 = 0 := not_bit5_iff t.b2

theorem safeToCopy_iff (t : Quad) : safeToCopy t = true ↔ t.b3 &&& 0x20 ≠ 0 := bit5_iff t.b3

/-- R111: the letters are asked for only under P_VALID_ALPHA. -/
theorem valid_iff (cfg : Config) (t : Quad) :
    valid cfg t = true ↔ t.b2 &&& 0x20 = 0 ∧
      (cfg.pValidAlpha = true → AsciiLetter t.b0 ∧ AsciiLetter t.b1 ∧ AsciiLetter t.b2 ∧ AsciiLetter t.b3) := by
  rw [valid, Bool.and_eq_true, reservedBitValid_iff, ← Quad.allAlpha_iff]
  cases cfg.pValidAlpha <;> simp

/-! The queries of TR (R103, R105 to R109) -/

/-- A query of TR with TRV = 1 answers in RES. -/
theorem completes_of_typeQuery {i : Instr} {s : State} {f : Quad → Word} {v : Word} (hi : exec i s = .next (typeQuery f s))
    (ht : s.trv = true) (hv : f s.tr = v) : Completes i s { s.record with res := v } := by
  rw [typeQuery, needType_of_trv ht, hv] at hi
  exact completes_of_exec hi

/-- A query of TR with TRV = 0 raises NoType. -/
theorem raises_of_typeQuery {i : Instr} {s : State} {f : Quad → Word} (hi : exec i s = .next (typeQuery f s))
    (ht : s.trv = false) : Raises i s .noType 0 := by
  rw [typeQuery, needType_of_empty ht] at hi
  exact raises_of_exec hi

/-- Settles O23: CT_BYTES is the query of TR by `be32`. -/
theorem typeBytesResult : Obligations.TypeBytesResult :=
  ⟨rfl, fun s => ⟨fun ht => completes_of_typeQuery rfl ht (be32_eq_ofNat s.tr), raises_of_typeQuery rfl⟩⟩

/-- Settles O24: each predicate is a query of TR, and its property is the bit 0x20 of its byte. -/
theorem typePropertyResults : Obligations.TypePropertyResults := by
  refine ⟨⟨rfl, rfl, rfl, rfl⟩, fun s => ⟨fun ht => ?_, fun ht => ?_⟩⟩
  · exact ⟨completes_of_typeQuery rfl ht (zext32_of_iff (critical_iff s.tr)),
      completes_of_typeQuery rfl ht (zext32_of_iff (isPublic_iff s.tr)),
      completes_of_typeQuery rfl ht (zext32_of_iff (reservedBitValid_iff s.tr)),
      completes_of_typeQuery rfl ht (zext32_of_iff (safeToCopy_iff s.tr))⟩
  · exact ⟨raises_of_typeQuery rfl ht, raises_of_typeQuery rfl ht, raises_of_typeQuery rfl ht, raises_of_typeQuery rfl ht⟩

/-- Settles O25: CT_IS_VALID is the query of TR by `valid`. -/
theorem typeValidityResult : Obligations.TypeValidityResult :=
  ⟨rfl, fun s => ⟨fun ht => completes_of_typeQuery rfl ht (zext32_of_iff (valid_iff s.cfg s.tr)), raises_of_typeQuery rfl⟩⟩

/-! Setting TR (R101, R102) -/

/-- Settles O21: no check stands before the write of TR. -/
theorem typeFromBytesResult : Obligations.TypeFromBytesResult :=
  ⟨rfl, fun s => completes_of_exec (s' := { s with tr := s.argType, trv := true }) rfl⟩

/-- Settles O26: CT_FROM_BYTES sets TRV, so CT_BYTES reads the type back, and `be32` undoes `u32be`. -/
theorem rawTypeComesBackAsWritten : Obligations.RawTypeComesBackAsWritten :=
  ⟨fun s => ⟨_, _, rfl, congrArg Host.Outcome.next (needType_of_trv rfl _), rfl, be32_u32be s.arg⟩, be32_u32be, u32be_be32⟩

/-- R85, R102: an input of four bytes as a type. -/
theorem quadAt_input_of_ilen_eq {s : State} (h : s.ilen = 4) :
    quadAt s.input 0 = ⟨s.ibufByte 0, s.ibufByte 1, s.ibufByte 2, s.ibufByte 3⟩ := by
  rw [State.input, h]
  rfl

/-- R15, R102: the letter check of a four-byte input is the check of each of its bytes. -/
theorem allAlpha_quadAt_input_iff {s : State} (h : s.ilen = 4) :
    (quadAt s.input 0).allAlpha = true ↔ ∀ k < 4, AsciiLetter (s.ibufByte k) := by
  rw [quadAt_input_of_ilen_eq h, Quad.allAlpha_iff]
  simp only [Nat.forall_lt_succ_right, Nat.not_lt_zero, false_implies, implies_true, true_and, and_assoc]

/-- R102: within the capacity CT_FROM_STRING takes four letters. -/
theorem exec_ctFromString_of_letters {s : State} (hle : s.ilen.toNat ≤ s.cfg.pIbufBytes) (h4 : s.ilen = 4)
    (ha : (quadAt s.input 0).allAlpha = true) :
    exec .ctFromString s = .next (complete { s with tr := quadAt s.input 0, trv := true }) := by
  simp [exec, execCtFromString, needInput_of_le hle, h4, ha]

/-- R102: within the capacity CT_FROM_STRING reports every other input. -/
theorem exec_ctFromString_of_not_letters {s : State} (hle : s.ilen.toNat ≤ s.cfg.pIbufBytes)
    (hno : s.ilen = 4 → (quadAt s.input 0).allAlpha = false) :
    exec .ctFromString s = .next (raise .invalidFormat 0 s) := by
  rw [exec, execCtFromString, needInput_of_le hle]
  by_cases h4 : s.ilen = 4
  · simp [h4, hno h4]
  · have hlen : s.ilen.toNat ≠ 4 := fun h => h4 (BitVec.eq_of_toNat_eq h)
    rw [if_pos hlen]

/-- Settles O22: the input capacity is checked first, then the length and the letters. -/
theorem typeFromStringResult : Obligations.TypeFromStringResult := by
  refine ⟨rfl, fun s => ⟨fun hlt => ?_, fun hle h4 ha => ?_, fun hle hno => ?_⟩⟩
  · exact raises_of_exec (congrArg Host.Outcome.next (needInput_of_lt hlt _))
  · rw [← quadAt_input_of_ilen_eq h4]
    exact completes_of_exec (exec_ctFromString_of_letters hle h4 ((allAlpha_quadAt_input_iff h4).2 ha))
  · refine raises_of_exec (exec_ctFromString_of_not_letters hle fun h4 => Bool.eq_false_iff.2 fun ha => ?_)
    rcases hno with hlen | ⟨k, hk, hb⟩
    · exact hlen h4
    · exact hb ((allAlpha_quadAt_input_iff h4).1 ha k hk)

end Sys2Proof.Machine
end

section
/-! ## The CRC family: the generator as a linear map, its table, and CRC_COMPUTE (42_crc32.md) -/

namespace Sys2Proof.Machine

/-! The inner loop of R121 is linear over XOR -/

/-- R121: one repetition with the polynomial as a summand. -/
theorem crcShift_eq_xor (r : Word) : crcShift r = r >>> 1 ^^^ if r.getLsbD 0 then crcPoly else 0 := by
  unfold crcShift
  split <;> simp

/-- A summand under the XOR of two flags is the XOR of the summands under each. -/
theorem ite_xor_eq (p q : Bool) (w : Word) :
    (if p ^^ q then w else 0) = (if p then w else 0) ^^^ if q then w else 0 := by
  cases p <;> cases q <;> simp

theorem crcShift_xor (x y : Word) : crcShift (x ^^^ y) = crcShift x ^^^ crcShift y := by
  simp only [crcShift_eq_xor, BitVec.ushiftRight_xor_distrib, BitVec.getLsbD_xor, ite_xor_eq]
  ac_rfl

theorem crcShifts_xor (n : Nat) (x y : Word) : crcShifts n (x ^^^ y) = crcShifts n x ^^^ crcShifts n y := by
  induction n generalizing x y with
  | zero => rfl
  | succ n ih => simp only [crcShifts, crcShift_xor, ih]

/-! The table form (R123) -/

/-- With the low bit clear a repetition only shifts. -/
theorem crcShift_of_low_clear {r : Word} (h : r.getLsbD 0 = false) : crcShift r = r >>> 1 :=
  if_neg (by rw [h]; exact Bool.false_ne_true)

/-- While the bits to be shifted out are clear the polynomial never comes in. -/
theorem crcShifts_of_low_clear {n : Nat} {r : Word} (h : ∀ i < n, r.getLsbD i = false) : crcShifts n r = r >>> n := by
  induction n generalizing r with
  | zero => simp [crcShifts]
  | succ n ih =>
    have hshifted : ∀ i < n, (r >>> 1).getLsbD i = false := fun i hi => by
      rw [BitVec.getLsbD_ushiftRight]
      exact h (1 + i) (by omega)
    rw [crcShifts, crcShift_of_low_clear (h 0 n.succ_pos), ih hshifted, ← BitVec.shiftRight_add, Nat.add_comm]

/-- The register is its low byte and the rest; the rest only moves down. -/
theorem crcShifts_eight_eq_xor (r : Word) :
    crcShifts 8 r = crcShifts 8 ((r.extractLsb' 0 8).setWidth 32) ^^^ r >>> 8 := by
  have hsplit : r = (r.extractLsb' 0 8).setWidth 32 ^^^ (r >>> 8) <<< 8 := by ext; grind
  have hclear : ∀ i < 8, ((r >>> 8) <<< 8).getLsbD i = false := fun i hi => by simp; omega
  have hdown : ((r >>> 8) <<< 8) >>> 8 = r >>> 8 := by ext; grind
  calc crcShifts 8 r
      = crcShifts 8 ((r.extractLsb' 0 8).setWidth 32 ^^^ (r >>> 8) <<< 8) := congrArg _ hsplit
    _ = crcShifts 8 ((r.extractLsb' 0 8).setWidth 32) ^^^ r >>> 8 := by
      rw [crcShifts_xor, crcShifts_of_low_clear hclear, hdown]

/-- R123: the table as the spec prints it. -/
theorem crcTable_eq_map : crcTable = (List.range 256).map fun n => crcShifts 8 (BitVec.ofNat 32 n) := by decide +kernel

theorem crcTable_getElem? {n : Nat} (h : n < 256) : crcTable[n]? = some (crcShifts 8 (BitVec.ofNat 32 n)) := by
  simp [crcTable_eq_map, h]

/-- The lookup of R123. -/
theorem crcTable_getD_toNat (b : Byte) : crcTable.getD b.toNat 0 = crcShifts 8 (b.setWidth 32) := by
  rw [List.getD_eq_getElem?_getD, crcTable_getElem? b.isLt, Option.getD_some, BitVec.ofNat_toNat]

/-- A byte that enters the register leaves the upper bits as they are. -/
theorem xor_setWidth_ushiftRight_eight (r : Word) (b : Byte) : (r ^^^ b.setWidth 32) >>> 8 = r >>> 8 := by
  have hb : b.setWidth 32 >>> 8 = 0#32 := by ext; simp
  rw [BitVec.ushiftRight_xor_distrib, hb, BitVec.xor_zero]

theorem crcTableUpdate_eq_crcUpdate (r : Word) (b : Byte) : crcTableUpdate r b = crcUpdate r b := by
  rw [crcTableUpdate, crcTable_getD_toNat, crcUpdate, crcShifts_eight_eq_xor (r ^^^ b.setWidth 32), xor_setWidth_ushiftRight_eight]

/-- Settles O29: the entries are computed once; the update splits the register into its low byte, which the table looks up, and the
rest, by the linearity of the loop. -/
theorem crcTableFormIsTheBitwiseForm : Obligations.CrcTableFormIsTheBitwiseForm :=
  ⟨by simp [crcTable_eq_map], fun _ => crcTable_getElem?, crcTableUpdate_eq_crcUpdate⟩

/-! No information is lost (R127) -/

/-- Only 0 is taken to 0: the polynomial's top bit marks a repetition that shifts out a 1. -/
theorem eq_zero_of_crcShift_eq_zero {r : Word} (h : crcShift r = 0#32) : r = 0#32 := by
  unfold crcShift at h
  split at h
  case isTrue hlow =>
    have htop := congrArg (BitVec.getLsbD · 31) h
    simp [crcPoly] at htop
  case isFalse hlow =>
    refine BitVec.eq_of_getLsbD_eq fun i _ => ?_
    cases i with
    | zero => simpa using hlow
    | succ i => simpa [Nat.add_comm] using congrArg (BitVec.getLsbD · i) h

theorem crcShift_injective : Function.Injective crcShift := fun x y h =>
  BitVec.xor_eq_zero_iff.1 (eq_zero_of_crcShift_eq_zero (by rw [crcShift_xor, h, BitVec.xor_self]))

theorem crcShifts_injective (n : Nat) : Function.Injective (crcShifts n) := by
  induction n with
  | zero => exact Function.injective_id
  | succ n ih => exact ih.comp crcShift_injective

/-- R122: for one byte, distinct registers stay distinct. -/
theorem crcUpdate_injective_register (b : Byte) : Function.Injective (crcUpdate · b) := fun _ _ h =>
  (BitVec.xor_left_inj _).1 (crcShifts_injective 8 h)

/-- R122: from one register, distinct bytes lead to distinct registers. -/
theorem crcUpdate_injective_byte (r : Word) : Function.Injective (crcUpdate r) := by
  intro a b h
  have hwide : a.setWidth 32 = b.setWidth 32 := (BitVec.xor_right_inj r).1 (crcShifts_injective 8 h)
  simpa using congrArg (BitVec.setWidth 8) hwide

theorem crcUpdates_injective (s : List Byte) : Function.Injective (crcUpdates · s) := by
  induction s with
  | nil => exact Function.injective_id
  | cons b s ih => exact ih.comp (crcUpdate_injective_register b)

theorem crcFinal_injective : Function.Injective crcFinal := fun _ _ => (BitVec.xor_left_inj _).1

/-- Sequences that differ in one byte differ in their CRC. -/
theorem crc32_ne_of_byte_ne (s t : List Byte) {a b : Byte} (h : a ≠ b) : crc32 (s ++ a :: t) ≠ crc32 (s ++ b :: t) := by
  intro heq
  have hregs := crcFinal_injective heq
  rw [crcUpdates_append, crcUpdates_append] at hregs
  exact h (crcUpdate_injective_byte _ (crcUpdates_injective t hregs))

/-- R127: a flip changes the byte it is in. -/
theorem byte_xor_flip_ne (b : Byte) {j : Nat} (hj : j < 8) : b ^^^ 1#8 <<< j ≠ b := by
  intro h
  have hbit := congrArg (BitVec.getLsbD · j) h
  simp [hj] at hbit

/-- Settles O30: the flip changes one byte, and a byte that differs leads to another register, which the bytes after it keep apart. -/
theorem singleBitFlipChangesTheCrc : Obligations.SingleBitFlipChangesTheCrc := by
  intro s i j hi hj
  obtain ⟨l, b, t, rfl, -, hflip⟩ := List.exists_of_modify (fun b : Byte => b ^^^ 1#8 <<< j) hi
  rw [flipBit, hflip]
  exact crc32_ne_of_byte_ne l t (byte_xor_flip_ne b hj)

/-! CRC_COMPUTE and the known values (R125, R126) -/

/-- R85: the operand is the first ILEN bytes of IBUF. -/
theorem State.input_eq_map (s : State) : s.input = (List.range s.ilen.toNat).map s.ibufByte := by
  simp [State.input, State.memRead]

/-- Settles O27: the input capacity is the only check. -/
theorem crcComputeResult : Obligations.CrcComputeResult := by
  refine ⟨rfl, fun s => ⟨fun hle => ?_, fun hlt => ?_⟩⟩
  · rw [← s.input_eq_map]
    exact completes_of_exec (s' := { s with res := crc32 s.input }) (congrArg Host.Outcome.next (needInput_of_le hle _))
  · exact raises_of_exec (congrArg Host.Outcome.next (needInput_of_lt hlt _))

/-- Settles O28: each value is computed. -/
theorem crcKnownValues : Obligations.CrcKnownValues := by
  unfold Obligations.CrcKnownValues
  decide +kernel

end Sys2Proof.Machine
end

section
/-! ## The chunk family: framing, the parser, and the chunk commands (43_chunk.md) -/

namespace Sys2Proof.Machine

/-! The chunk at the front of a byte sequence (R141, R143) -/

/-- R143: the record read from the front of a byte sequence, its checksum not yet compared. -/
def frontChunk (s : List Byte) : Chunk where
  type := quadAt s 4
  data := slice s 8 (8 + (be32 (quadAt s 0)).toNat)
  length := be32 (quadAt s 0)
  crc := be32 (quadAt s (8 + (be32 (quadAt s 0)).toNat))

/-- R143: with 12 + L bytes the checksum decides. -/
theorem parseChunk_of_le {s : List Byte} (h : 12 + (frontChunk s).length.toNat ≤ s.length) :
    parseChunk s =
      if crc32 ((frontChunk s).type.bytes ++ (frontChunk s).data) = (frontChunk s).crc
      then .ok (frontChunk s) (12 + (frontChunk s).length.toNat) else .checksumMismatch := by
  unfold parseChunk
  rw [if_neg (by omega)]
  refine (if_neg (Nat.not_lt.2 h)).trans ?_
  rw [ite_not]
  rfl

/-- R143: Truncated is reported exactly when 12 bytes or 12 + L bytes are not there. -/
theorem parseChunk_eq_truncated_iff (s : List Byte) :
    parseChunk s = .truncated ↔ s.length < 12 ∨ s.length < 12 + (be32 (quadAt s 0)).toNat := by
  rcases parseChunk_cases s with ⟨h, hp⟩ | ⟨h, hp | ⟨c, hp, -⟩⟩
  · exact iff_of_true hp h
  · exact iff_of_false (by simp [hp]) (by omega)
  · exact iff_of_false (by simp [hp]) (by omega)

/-- R143: a chunk that is returned is the front of the sequence. -/
theorem eq_frontChunk_of_parseChunk {s : List Byte} {c : Chunk} {k : Nat} (h : parseChunk s = .ok c k) : c = frontChunk s := by
  rcases parseChunk_cases s with ⟨-, hp⟩ | ⟨hle, -⟩
  · rw [hp] at h
    cases h
  · rw [parseChunk_of_le hle] at h
    split at h <;> cases h
    rfl

/-! The frame and the front of a sequence are inverse (R141, R150) -/

/-- R11: four bytes read from inside a sequence. -/
theorem quadAt_append {pre : List Byte} {i : Nat} (h : pre.length = i) (q : Quad) (tail : List Byte) :
    quadAt (pre ++ q.bytes ++ tail) i = q := by
  rw [List.append_assoc, quadAt, List.drop_left' h]
  rfl

/-- R11: a part of known length read from inside a sequence. -/
theorem slice_append {pre d : List Byte} {i j : Nat} (hi : pre.length = i) (hj : i + d.length = j) (tail : List Byte) :
    slice (pre ++ d ++ tail) i j = d := by
  rw [List.append_assoc, slice, List.drop_left' hi, List.take_left' (by omega)]

/-- R11: the rest of a sequence from `i` on, as four bytes and what follows. -/
theorem bytes_quadAt_append_drop {s : List Byte} {i : Nat} (h : i + 4 ≤ s.length) : (quadAt s i).bytes ++ s.drop (i + 4) = s.drop i := by
  have hlen : 4 ≤ (s.drop i).length := by rw [List.length_drop]; omega
  rw [quadAt, ← List.drop_drop]
  match s.drop i, hlen with
  | _ :: _ :: _ :: _ :: _, _ => rfl

/-- R11: the rest of a sequence from `i` on, as `s[i..j)` and what follows. -/
theorem slice_append_drop (s : List Byte) {i j : Nat} (h : i ≤ j) : slice s i j ++ s.drop j = s.drop i := by
  have hdrop : s.drop j = (s.drop i).drop (j - i) := by rw [List.drop_drop, Nat.add_sub_cancel' h]
  rw [slice, hdrop, List.take_append_drop]

/-- R150: the front of a sequence that begins with a chunk's frame is that chunk, whatever its checksum. -/
theorem frontChunk_frame_append {c : Chunk} (h : c.length.toNat = c.data.length) (tail : List Byte) :
    frontChunk (frame c ++ tail) = c := by
  have hlen : be32 (quadAt (frame c ++ tail) 0) = c.length := be32_u32be c.length
  have htype : quadAt (frame c ++ tail) 4 = c.type := rfl
  have hdata : slice (frame c ++ tail) 8 (8 + c.length.toNat) = c.data := by
    rw [frame, List.append_assoc]
    exact slice_append (i := 8) rfl (by omega) _
  have hcrc : quadAt (frame c ++ tail) (8 + c.length.toNat) = u32be c.crc :=
    quadAt_append (by simp [h]; omega) _ _
  simp only [frontChunk, hlen, htype, hdata, hcrc, be32_u32be]

/-- R150, the converse: a sequence of at least 12 + L bytes begins with the frame of its front. -/
theorem frame_frontChunk_append_drop {s : List Byte} (h : 12 + (frontChunk s).length.toNat ≤ s.length) :
    frame (frontChunk s) ++ s.drop (12 + (frontChunk s).length.toNat) = s := by
  obtain ⟨l, hl⟩ : ∃ l, l = 8 + (frontChunk s).length.toNat := ⟨_, rfl⟩
  have hend : 12 + (frontChunk s).length.toNat = l + 4 := by omega
  calc frame (frontChunk s) ++ s.drop (12 + (frontChunk s).length.toNat)
      = (quadAt s 0).bytes ++ ((quadAt s 4).bytes ++ (slice s 8 l ++ ((quadAt s l).bytes ++ s.drop (l + 4)))) := by
        simp only [frame, List.append_assoc, hend]
        simp only [frontChunk, u32be_be32, hl]
    _ = s := by
        rw [bytes_quadAt_append_drop (by omega), slice_append_drop s (by omega), bytes_quadAt_append_drop (by omega),
          bytes_quadAt_append_drop (by omega), List.drop_zero]

/-- R143 at a frame: only the checksum is left to compare. -/
theorem parseChunk_frame_append_eq_ite {c : Chunk} (h : c.length.toNat = c.data.length) (tail : List Byte) :
    parseChunk (frame c ++ tail) =
      if crc32 (c.type.bytes ++ c.data) = c.crc then .ok c (12 + c.length.toNat) else .checksumMismatch := by
  have hfront := frontChunk_frame_append h tail
  rw [parseChunk_of_le (by rw [hfront, List.length_append, frame_length]; omega), hfront]

/-- R150: a consistent chunk is parsed back from its frame. -/
theorem parseChunk_frame_append {c : Chunk} (h : c.Consistent) (tail : List Byte) :
    parseChunk (frame c ++ tail) = .ok c (12 + c.length.toNat) := by
  obtain ⟨hlen, hcrc⟩ := h
  rw [parseChunk_frame_append_eq_ite hlen, if_pos hcrc.symm]

/-- Settles O32: a chunk that is returned is the front of the sequence, and so its frame stands there; a frame is parsed back. -/
theorem parseChunkAcceptsExactlyFrames : Obligations.ParseChunkAcceptsExactlyFrames := by
  refine ⟨fun s c k => ⟨fun h => ?_, ?_⟩, parseChunk_eq_truncated_iff⟩
  · obtain ⟨hk, hle, hc⟩ := parseChunk_ok h
    obtain rfl := eq_frontChunk_of_parseChunk h
    exact ⟨hc, hk, _, (frame_frontChunk_append_drop (hk ▸ hle)).symm⟩
  · rintro ⟨hc, rfl, tail, rfl⟩
    exact parseChunk_frame_append hc tail

/-! A flipped bit is detected (R151) -/

/-- R143: a sequence framed like a chunk, with other four bytes where the CRC of its type and payload belongs. -/
theorem parseChunk_of_crc_ne {l : Word} {body : List Byte} {q : Quad} (hlen : body.length = 4 + l.toNat) (hne : crc32 body ≠ be32 q) :
    parseChunk ((u32be l).bytes ++ body ++ q.bytes) = .checksumMismatch := by
  have hbody : (quadAt body 0).bytes ++ body.drop 4 = body := bytes_quadAt_append_drop (by omega)
  have hframe : (u32be l).bytes ++ body ++ q.bytes = frame ⟨quadAt body 0, body.drop 4, l, be32 q⟩ ++ [] := by
    rw [frame, u32be_be32, List.append_assoc _ (quadAt body 0).bytes, hbody, List.append_nil]
  rw [hframe, parseChunk_frame_append_eq_ite (by simp only [List.length_drop]; omega), if_neg (by rwa [hbody])]

@[simp] theorem flipBit_length (s : List Byte) (i j : Nat) : (flipBit s i j).length = s.length := List.length_modify ..

/-- A flip in the first of two parts. -/
theorem flipBit_append_of_lt {s : List Byte} {i : Nat} (h : i < s.length) (t : List Byte) (j : Nat) :
    flipBit (s ++ t) i j = flipBit s i j ++ t := by
  induction s generalizing i with
  | nil => cases h
  | cons b s ih =>
    cases i with
    | zero => rfl
    | succ i => exact congrArg (b :: ·) (ih (Nat.lt_of_succ_lt_succ h))

/-- A flip in the second of two parts. -/
theorem flipBit_append_right (s t : List Byte) (i j : Nat) : flipBit (s ++ t) (s.length + i) j = s ++ flipBit t i j := by
  induction s with
  | nil => simp
  | cons b s ih =>
    rw [List.length_cons, Nat.succ_add]
    exact congrArg (b :: ·) ih

theorem flipBit_ne {s : List Byte} {i j : Nat} (hi : i < s.length) (hj : j < 8) : flipBit s i j ≠ s := fun h =>
  singleBitFlipChangesTheCrc s i j hi hj (congrArg crc32 h)

/-- A flip in four bytes gives four other bytes. -/
theorem exists_flipBit_bytes_eq (q : Quad) {i j : Nat} (hi : i < 4) (hj : j < 8) : ∃ p, flipBit q.bytes i j = p.bytes ∧ p ≠ q := by
  have hp : (quadAt (flipBit q.bytes i j) 0).bytes ++ (flipBit q.bytes i j).drop 4 = flipBit q.bytes i j :=
    bytes_quadAt_append_drop (by simp)
  rw [List.drop_of_length_le (by simp), List.append_nil] at hp
  refine ⟨_, hp.symm, fun h => flipBit_ne (s := q.bytes) hi hj ?_⟩
  rw [← hp, h]

theorem be32_injective : Function.Injective be32 := Function.LeftInverse.injective u32be_be32

/-- Settles O37: the flip is in the type and payload, whose CRC it changes, or in the checksum, which then is another word. -/
theorem checksumDetectsEveryBitFlip : Obligations.ChecksumDetectsEveryBitFlip := by
  intro t d i j hd hi hlt hj
  obtain ⟨i, rfl⟩ := Nat.exists_eq_add_of_le hi
  have hlen : (t.bytes ++ d).length = 4 + (mkChunk t d).length.toNat := by
    rw [List.length_append, Quad.bytes_length]
    exact congrArg (4 + ·) (Nat.mod_eq_of_lt hd).symm
  have hframe : frame (mkChunk t d) = (u32be (mkChunk t d).length).bytes ++ ((t.bytes ++ d) ++ (u32be (chunkCrc t d)).bytes) := by
    simp [frame, mkChunk]
  rw [hframe, ← (u32be (mkChunk t d).length).bytes_length, flipBit_append_right]
  rcases Nat.lt_or_ge i (t.bytes ++ d).length with hbody | hcrc
  · rw [flipBit_append_of_lt hbody, ← List.append_assoc]
    refine parseChunk_of_crc_ne (by simpa using hlen) ?_
    rw [be32_u32be]
    exact singleBitFlipChangesTheCrc _ i j hbody hj
  · obtain ⟨k, rfl⟩ := Nat.exists_eq_add_of_le hcrc
    obtain ⟨q, hq, hne⟩ := exists_flipBit_bytes_eq (u32be (chunkCrc t d)) (i := k) (j := j) (by simp at hlt; omega) hj
    rw [flipBit_append_right, hq, ← List.append_assoc]
    refine parseChunk_of_crc_ne hlen fun h => hne (be32_injective ?_)
    rw [be32_u32be]
    exact h.symm

/-! What a command does once the chunk it needs is there -/

/-- R36, R207: with CRV = 1 CR is read. -/
theorem needChunk_of_crv {s : State} (h : s.crv = true) (k : Chunk → State) : needChunk s k = k s.cr := if_pos h

/-- R36, R207: with CRV = 0 a command that reads CR raises NoChunk. -/
theorem raises_noChunk {i : Instr} {s : State} {k : Chunk → State} (hi : exec i s = .next (needChunk s k)) (h : s.crv = false) :
    Raises i s .noChunk 0 := by
  rw [needChunk, h] at hi
  exact raises_of_exec hi

/-- R63: an output within the capacity is written. -/
theorem deliver_of_le {s : State} {n : Nat} (h : n ≤ s.cfg.pObufBytes) (b : List Byte) :
    deliver s n b = complete { s with obuf := s.obuf.writeBytes 0 b, olen := BitVec.ofNat 32 n } :=
  if_neg (Nat.not_lt.2 h)

/-- R206 (b): an output beyond the capacity is reported. -/
theorem deliver_of_lt {s : State} {n : Nat} (h : s.cfg.pObufBytes < n) (b : List Byte) :
    deliver s n b = raise .capacityExceeded 0 s :=
  if_pos h

/-- R63, R204: a command that comes to an output of all the bytes of `b`, within the capacity, delivers them. -/
theorem delivers_of_exec {i : Instr} {s : State} {n : Nat} {b : List Byte} (h : exec i s = .next (deliver s n b)) (hs : s.Inv)
    (hn : n = b.length) (hfit : n ≤ s.cfg.pObufBytes) : Delivers i s n b := by
  rw [deliver_of_le hfit] at h
  refine ⟨_, h, Nat.mod_eq_of_lt (hfit.trans_lt (Config.pObufBytes_lt hs.cfgWf)), fun a => ?_, rfl⟩
  simp [Memory.read?_writeBytes, hn]

/-! CHUNK_NEW and CHUNK_PARSE (R142, R144) -/

theorem exec_chunkNew {s : State} (ht : s.trv = true) (hle : s.ilen.toNat ≤ s.cfg.pIbufBytes) :
    exec .chunkNew s =
      .next (complete { s with cr := { type := s.tr, data := s.input, length := s.ilen, crc := chunkCrc s.tr s.input }, crv := true }) := by
  rw [exec, execChunkNew, needType_of_trv ht, needInput_of_le hle]

/-- Settles O31: the type is asked for first, then the input capacity is checked. -/
theorem chunkNewResult : Obligations.ChunkNewResult := by
  refine ⟨rfl, fun s => ⟨fun ht => ?_, fun ht hlt => ?_, fun ht hle d hd => ?_⟩⟩
  · exact raises_of_exec (congrArg Host.Outcome.next (needType_of_empty ht _))
  · exact raises_of_exec (congrArg Host.Outcome.next ((needType_of_trv ht _).trans (needInput_of_lt hlt _)))
  · obtain rfl := hd.trans s.input_eq_map.symm
    exact completes_of_exec (exec_chunkNew ht hle)

section
variable {s : State} (hle : s.ilen.toNat ≤ s.cfg.pIbufBytes)
include hle

theorem exec_chunkParse_of_truncated (h : parseChunk s.input = .truncated) :
    exec .chunkParse s = .next (raise .truncated 0 s) := by
  simp only [exec, execChunkParse, needInput_of_le hle, h]

theorem exec_chunkParse_of_checksumMismatch (h : parseChunk s.input = .checksumMismatch) :
    exec .chunkParse s = .next (raise .checksumMismatch 0 s) := by
  simp only [exec, execChunkParse, needInput_of_le hle, h]

theorem exec_chunkParse_of_ok {c : Chunk} {k : Nat} (h : parseChunk s.input = .ok c k) :
    exec .chunkParse s = .next (complete { s with cr := c, crv := true, res := BitVec.ofNat 32 k }) := by
  simp only [exec, execChunkParse, needInput_of_le hle, h]

end

/-- Settles O33: the input capacity is checked first, then the outcome is that of `parseChunk` on the input. -/
theorem chunkParseResult : Obligations.ChunkParseResult := by
  refine ⟨rfl, fun s => ⟨fun hlt => ?_, fun hle b hb => ?_⟩⟩
  · exact raises_of_exec (congrArg Host.Outcome.next (needInput_of_lt hlt _))
  · obtain rfl := hb.trans s.input_eq_map.symm
    refine ⟨fun hshort => ?_, ?_⟩
    · rw [← s.input_length] at hshort
      exact raises_of_exec (exec_chunkParse_of_truncated hle ((parseChunk_eq_truncated_iff _).2 hshort))
    · rintro - l t d c rfl hfit rfl rfl rfl
      have hparse := parseChunk_of_le (s := s.input) (by rwa [s.input_length])
      refine ⟨fun hne => ?_, fun heq => ?_⟩
      · exact raises_of_exec (exec_chunkParse_of_checksumMismatch hle (hparse.trans (if_neg hne)))
      · rw [BitVec.ofNat_toNat, BitVec.setWidth_eq]
        exact completes_of_exec (exec_chunkParse_of_ok hle (hparse.trans (if_pos heq)))

/-! CHUNK_AS_BYTES, CHUNK_DATA and the accessors (R145 to R149) -/

section
variable {s : State} (hcrv : s.crv = true)
include hcrv

theorem exec_chunkAsBytes : exec .chunkAsBytes s = .next (deliver s (frame s.cr).length (frame s.cr)) :=
  congrArg Host.Outcome.next (needChunk_of_crv hcrv _)

theorem exec_chunkData : exec .chunkData s = .next (deliver s s.cr.length.toNat s.cr.data) :=
  congrArg Host.Outcome.next (needChunk_of_crv hcrv _)

/-- R141: the frame of the chunk held in CR. -/
theorem frame_cr_length (h : s.Inv) : (frame s.cr).length = 12 + s.cr.length.toNat := by
  rw [frame_length, (h.heldChunk hcrv).length_eq]

end

/-- Settles O34: CHUNK_AS_BYTES is the output of CR's frame, whose size the invariant gives. -/
theorem chunkAsBytesResult : Obligations.ChunkAsBytesResult := by
  refine ⟨rfl, fun s h => ⟨fun hcrv => ?_, fun hcrv hlt => ?_, fun hcrv hfit => ?_⟩⟩
  · exact raises_noChunk rfl hcrv
  · have hexec := exec_chunkAsBytes hcrv
    rw [frame_cr_length hcrv h, deliver_of_lt hlt] at hexec
    exact raises_of_exec hexec
  · have hexec := exec_chunkAsBytes hcrv
    rw [frame_cr_length hcrv h] at hexec
    exact delivers_of_exec hexec h (frame_cr_length hcrv h).symm hfit

/-- Settles O35: CHUNK_DATA is the output of CR's payload, whose size the invariant gives. -/
theorem chunkDataResult : Obligations.ChunkDataResult := by
  refine ⟨rfl, fun s h => ⟨fun hcrv => ?_, fun hcrv hlt => ?_, fun hcrv hfit => ?_⟩⟩
  · exact raises_noChunk rfl hcrv
  · have hexec := exec_chunkData hcrv
    rw [deliver_of_lt hlt] at hexec
    exact raises_of_exec hexec
  · exact delivers_of_exec (exec_chunkData hcrv) h (h.heldChunk hcrv).length_eq hfit

/-- Settles O36: with CRV = 1 each accessor comes to `complete`, with CRV = 0 to NoChunk; the CRC of a held chunk is R48's. -/
theorem chunkAccessorResults : Obligations.ChunkAccessorResults := by
  refine ⟨⟨rfl, rfl, rfl⟩, fun s => ⟨fun hcrv => ⟨?_, ?_, ?_⟩, fun h hcrv => ?_, fun hcrv => ?_⟩⟩
  · exact completes_of_exec (s' := { s with res := s.cr.length }) (congrArg Host.Outcome.next (needChunk_of_crv hcrv _))
  · exact completes_of_exec (s' := { s with tr := s.cr.type, trv := true, res := be32 s.cr.type })
      (congrArg Host.Outcome.next (needChunk_of_crv hcrv _))
  · exact completes_of_exec (s' := { s with res := s.cr.crc }) (congrArg Host.Outcome.next (needChunk_of_crv hcrv _))
  · obtain ⟨⟨-, hcrc⟩, -⟩ := h.heldChunk hcrv
    exact hcrc
  · exact ⟨raises_noChunk rfl hcrv, raises_noChunk rfl hcrv, raises_noChunk rfl hcrv⟩

/-! The round trip through the buffers (R150) -/

/-- R62, R85: bytes written to IBUF from offset 0 on are the input of a command with their number in ILEN. -/
theorem State.input_eq_of_read? {s : State} {b : List Byte} (hlen : s.ilen.toNat = b.length)
    (h : ∀ a < b.length, s.ibuf.read? a = b[a]?) : s.input = b := by
  refine List.ext_getElem (by rw [s.input_length, hlen]) fun a _ ha => ?_
  have hread : s.ibuf.read? a = some b[a] := (h a ha).trans (List.getElem?_eq_getElem ha)
  simp [s.input_eq_map, State.ibufByte_of_read? hread]

/-- R8: no command writes the parameters. -/
theorem exec_keeps_cfg {i : Instr} {s t : State} (h : exec i s = .next t) : t.cfg = s.cfg := by
  rcases exec_ends h with ⟨e, info, -, rfl⟩ | ⟨s', rfl, hcfg, -⟩
  · rfl
  · exact hcfg

/-- R150: a held chunk that CHUNK_AS_BYTES writes to OBUF comes back from those bytes in IBUF. -/
theorem chunkParse_of_chunkAsBytes {t : State} (h : t.Inv) (hcrv : t.crv = true) (hin : 12 + t.cr.length.toNat ≤ t.cfg.pIbufBytes)
    (hout : 12 + t.cr.length.toNat ≤ t.cfg.pObufBytes) :
    ∃ u, exec .chunkAsBytes t = .next u ∧ u.olen.toNat = 12 + t.cr.length.toNat ∧
      ∀ v : State, v.cfg = u.cfg → v.ilen = u.olen → (∀ a < u.olen.toNat, v.ibuf.read? a = u.obuf.read? a) →
        ∃ x, exec .chunkParse v = .next x ∧ x.err = 0 ∧ x.cr = t.cr ∧ x.crv = true ∧ x.res.toNat = 12 + t.cr.length.toNat := by
  obtain ⟨-, hresult⟩ := chunkAsBytesResult
  obtain ⟨-, -, hdelivers⟩ := hresult t h
  obtain ⟨u, hu, holen, hobuf, -⟩ := hdelivers hcrv hout
  refine ⟨u, hu, holen, fun v hcfg hilen hibuf => ?_⟩
  have hlen : v.ilen.toNat = (frame t.cr).length := by rw [hilen, holen, frame_cr_length hcrv h]
  have hinput : v.input = frame t.cr := by
    refine State.input_eq_of_read? hlen fun a ha => ?_
    rw [← hlen, hilen] at ha
    rw [hibuf a ha, hobuf, if_pos (holen ▸ ha)]
    rfl
  have hle : v.ilen.toNat ≤ v.cfg.pIbufBytes := by rwa [hcfg, exec_keeps_cfg hu, hilen, holen]
  have hparse : parseChunk v.input = .ok t.cr (12 + t.cr.length.toNat) := by
    rw [hinput, ← List.append_nil (frame t.cr)]
    exact parseChunk_frame_append (h.heldChunk hcrv).1 []
  refine ⟨_, exec_chunkParse_of_ok hle hparse, rfl, rfl, rfl, ?_⟩
  exact Nat.mod_eq_of_lt (hout.trans_lt (Config.pObufBytes_lt h.cfgWf))

/-- Settles O38: CHUNK_NEW keeps the invariant and leaves in CR a chunk that comes back. -/
theorem chunkRoundTripThroughTheBuffers : Obligations.ChunkRoundTripThroughTheBuffers := by
  intro s h htrv hin hout
  have hnew := exec_chunkNew htrv (Nat.le_of_add_left_le hin)
  obtain ⟨u, hu, hback⟩ := chunkParse_of_chunkAsBytes (exec_inv h hnew) rfl hin hout
  exact ⟨_, u, hnew, hu, hback⟩

end Sys2Proof.Machine
end

section
/-! ## The container family: the stream, the by-type search, and the container commands (44_container.md) -/

namespace Sys2Proof.Machine

/-! The serialized container (R173) -/

/-- R173, R181: one more chunk is its frame at the end. -/
theorem containerBytes_append_singleton (cs : List Chunk) (c : Chunk) :
    containerBytes (cs ++ [c]) = containerBytes cs ++ frame c := by
  simp [containerBytes]

/-- R141: "Its length |frame(c)| = 12 + c.length". -/
theorem Chunk.Consistent.frame_length {c : Chunk} (h : c.Consistent) : (frame c).length = 12 + c.length.toNat := by
  obtain ⟨hlen, -⟩ := h
  rw [Machine.frame_length, hlen]

/-- R173, R178: the length of a serialized container by the length fields of its chunks. -/
theorem containerBytes_length_of_consistent {cs : List Chunk} (h : ∀ c ∈ cs, c.Consistent) :
    (containerBytes cs).length = 8 + (cs.map fun c => 12 + c.length.toNat).sum := by
  rw [containerBytes, List.length_append, List.length_flatten, List.map_map]
  exact congrArg (8 + List.sum ·) (List.map_congr_left fun c hc => (h c hc).frame_length)

/-- R143, R150: a chunk that is parsed is consistent, and its frame stands at the front. -/
theorem parseChunk_eq_ok_iff {s : List Byte} {c : Chunk} {k : Nat} :
    parseChunk s = .ok c k ↔ c.Consistent ∧ k = 12 + c.length.toNat ∧ ∃ tail, s = frame c ++ tail := by
  obtain ⟨hok, -⟩ := parseChunkAcceptsExactlyFrames
  exact hok s c k

/-! The loop of PNG_PARSE at the next chunk (R174) -/

@[simp] theorem parseLoop_nil (cfg : Config) (fuel off : Nat) (acc : List Chunk) (total : Nat) :
    parseLoop cfg fuel [] off acc total = .ok acc := by
  cases fuel <;> rfl

section
variable (cfg : Config) {rest : List Byte} (off : Nat) (acc : List Chunk) (total : Nat)

theorem parseLoop_of_truncated (hne : rest ≠ []) (h : parseChunk rest = .truncated) :
    parseLoop cfg rest.length rest off acc total = .error .truncated off := by
  obtain ⟨b, bs, rfl⟩ := List.exists_cons_of_ne_nil hne
  rw [List.length_cons, parseLoop_cons, h]

theorem parseLoop_of_checksumMismatch (hne : rest ≠ []) (h : parseChunk rest = .checksumMismatch) :
    parseLoop cfg rest.length rest off acc total = .error .checksumMismatch off := by
  obtain ⟨b, bs, rfl⟩ := List.exists_cons_of_ne_nil hne
  rw [List.length_cons, parseLoop_cons, h]

/-- R174: the loop at a consistent chunk: it is gathered if there is room for it. -/
theorem parseLoop_frame_append {c : Chunk} (hc : c.Consistent) (tail : List Byte) :
    parseLoop cfg (frame c ++ tail).length (frame c ++ tail) off acc total =
      if acc.length + 1 > cfg.pMaxChunks ∨ total + c.length.toNat > cfg.pStoreBytes then .error .capacityExceeded off
      else parseLoop cfg tail.length tail (off + (frame c).length) (acc ++ [c]) (total + c.length.toNat) := by
  have hframe := hc.frame_length
  have hne : frame c ++ tail ≠ [] := List.append_ne_nil_of_left_ne_nil (List.ne_nil_of_length_pos (by omega)) _
  obtain ⟨b, bs, hb⟩ := List.exists_cons_of_ne_nil hne
  have hfuel : (frame c).length + tail.length = bs.length + 1 := by rw [← List.length_append, hb, List.length_cons]
  rw [hb, List.length_cons, parseLoop_cons, ← hb, parseChunk_frame_append hc tail, ← hframe]
  simp only [List.drop_left]
  rw [parseLoop_fuel cfg (m := bs.length) (n := tail.length) _ _ _ (by omega) (Nat.le_refl _)]

/-- R174, R179: what the loop has gathered, and what is left, are the bytes of the container it returns. -/
theorem containerBytes_of_parseLoop {fuel : Nat} {cs : List Chunk} (h : parseLoop cfg fuel rest off acc total = .ok cs) :
    containerBytes cs = containerBytes acc ++ rest := by
  induction fuel generalizing rest off acc total with
  | zero =>
    cases rest with
    | nil => cases h; simp
    | cons b bs => cases h
  | succ fuel ih =>
    cases rest with
    | nil => cases h; simp
    | cons b bs =>
      rw [parseLoop_cons] at h
      split at h
      case h_1 | h_2 => cases h
      case h_3 c k hp =>
        split at h
        case isTrue => cases h
        case isFalse =>
          obtain ⟨hc, rfl, tail, htail⟩ := parseChunk_eq_ok_iff.1 hp
          rw [ih _ _ _ h, containerBytes_append_singleton, htail, ← hc.frame_length, List.drop_left, List.append_assoc]

end

/-! The stream as a whole (R174, R179) -/

/-- R174: a stream that does not begin with the signature. -/
theorem parseStream_of_bad_signature (cfg : Config) {s : List Byte} (h : s.length < 8 ∨ slice s 0 8 ≠ signature) :
    parseStream cfg s = .error .invalidSignature 0 :=
  if_pos h

/-- R174: after the signature the loop begins at offset 8. -/
theorem parseStream_signature_append (cfg : Config) (rest : List Byte) :
    parseStream cfg (signature ++ rest) = parseLoop cfg rest.length rest 8 [] 0 := by
  have hsig : ¬((signature ++ rest).length < 8 ∨ slice (signature ++ rest) 0 8 ≠ signature) := by
    simp [slice, signature]
  have hdrop : (signature ++ rest).drop 8 = rest := rfl
  rw [parseStream, if_neg hsig, hdrop]
  exact parseLoop_fuel cfg 8 [] 0 (by simp) (Nat.le_refl _)

/-- R174: PNG_PARSE gets past the bytes of a container within the capacities and goes on with the rest. -/
theorem parseStream_containerBytes_append {cfg : Config} {cs : List Chunk} (hc : ∀ c ∈ cs, c.Consistent)
    (hcount : cs.length ≤ cfg.pMaxChunks) (hbytes : storedBytes cs ≤ cfg.pStoreBytes) (rest : List Byte) :
    parseStream cfg (containerBytes cs ++ rest) =
      parseLoop cfg rest.length rest (containerBytes cs).length cs (storedBytes cs) := by
  induction cs using List.reverseRecOn generalizing rest with
  | nil =>
    rw [containerBytes_nil]
    exact parseStream_signature_append cfg rest
  | append_singleton cs c ih =>
    have hlast : c.Consistent := hc c (by simp)
    have hstored : storedBytes (cs ++ [c]) = storedBytes cs + c.length.toNat := by
      obtain ⟨hlen, -⟩ := hlast
      simp [hlen]
    rw [List.length_append, List.length_singleton] at hcount
    rw [hstored] at hbytes
    rw [containerBytes_append_singleton, List.append_assoc,
      ih (fun x hx => hc x (List.mem_append_left _ hx)) (by omega) (by omega),
      parseLoop_frame_append cfg _ _ _ hlast, if_neg (by omega), List.length_append, hstored]

/-- R179: a container within the capacities is parsed back from its bytes. -/
theorem parseStream_containerBytes {cfg : Config} {cs : List Chunk} (hc : ∀ c ∈ cs, c.Consistent)
    (hcount : cs.length ≤ cfg.pMaxChunks) (hbytes : storedBytes cs ≤ cfg.pStoreBytes) :
    parseStream cfg (containerBytes cs) = .ok cs := by
  simpa using parseStream_containerBytes_append hc hcount hbytes []

/-- R179: a stream that is parsed is the bytes of the container it gives. -/
theorem containerBytes_of_parseStream {cfg : Config} {s : List Byte} {cs : List Chunk} (h : parseStream cfg s = .ok cs) :
    containerBytes cs = s := by
  unfold parseStream at h
  split at h
  case isTrue => cases h
  case isFalse hsig =>
    obtain ⟨-, hslice⟩ := not_or.1 hsig
    rw [containerBytes_of_parseLoop cfg _ _ _ h, containerBytes_nil, ← not_not.1 hslice, slice_append_drop s (Nat.zero_le 8),
      List.drop_zero]

/-! PNG_PARSE (R174) -/

section
variable {s : State} (hle : s.ilen.toNat ≤ s.cfg.pIbufBytes)
include hle

theorem exec_pngParse_of_error {e : ErrKind} {off : Nat} (h : parseStream s.cfg s.input = .error e off) :
    exec .pngParse s = .next (raise e (BitVec.ofNat 32 off) s) := by
  simp only [exec, execPngParse, needInput_of_le hle, h]

theorem exec_pngParse_of_ok {cs : List Chunk} (h : parseStream s.cfg s.input = .ok cs) :
    exec .pngParse s = .next (complete { s with cs := cs, csv := true, res := BitVec.ofNat 32 cs.length }) := by
  simp only [exec, execPngParse, needInput_of_le hle, h]

/-- R174: an error of the loop after the chunks `cs` is raised with the offset the loop stands at. -/
theorem raises_pngParse_of_parseLoop {cs : List Chunk} {rest : List Byte} {e : ErrKind} (hc : ∀ c ∈ cs, c.Consistent)
    (hcount : cs.length ≤ s.cfg.pMaxChunks) (hbytes : storedBytes cs ≤ s.cfg.pStoreBytes) (hin : s.input = containerBytes cs ++ rest)
    (h : parseLoop s.cfg rest.length rest (containerBytes cs).length cs (storedBytes cs) = .error e (containerBytes cs).length) :
    Raises .pngParse s e (BitVec.ofNat 32 (containerBytes cs).length) :=
  raises_of_exec (exec_pngParse_of_error hle (by rw [hin, parseStream_containerBytes_append hc hcount hbytes, h]))

end

/-- Settles O39: the input capacity, then the signature, then the loop at the first chunk it does not gather. -/
theorem pngParseResult : Obligations.PngParseResult := by
  refine ⟨rfl, fun s => ⟨fun hlt => ?_, fun hle b hb => ?_⟩⟩
  · exact raises_of_exec (congrArg Host.Outcome.next (needInput_of_lt hlt _))
  · obtain rfl := hb.trans s.input_eq_map.symm
    refine ⟨fun hsig => ?_, fun cs hc hcount hbytes => ⟨fun hin => ?_, ?_⟩⟩
    · exact raises_of_exec (exec_pngParse_of_error hle (parseStream_of_bad_signature s.cfg hsig))
    · have hparse := parseStream_containerBytes hc hcount hbytes
      rw [← hin] at hparse
      exact completes_of_exec (exec_pngParse_of_ok hle hparse)
    · rintro rest off hne hin rfl
      refine ⟨fun hp => ?_, fun hp => ?_, fun c k hp hfull => ?_⟩ <;>
        refine raises_pngParse_of_parseLoop hle hc hcount hbytes hin ?_
      · exact parseLoop_of_truncated s.cfg _ _ _ hne hp
      · exact parseLoop_of_checksumMismatch s.cfg _ _ _ hne hp
      · obtain ⟨hcons, -, tail, rfl⟩ := parseChunk_eq_ok_iff.1 hp
        rw [parseLoop_frame_append s.cfg _ _ _ hcons, if_pos hfull]

/-! PNG_AS_BYTES (R178) and the round trip (R179) -/

/-- R37, R207: with CSV = 1 CS is read. -/
theorem needContainer_of_csv {s : State} (h : s.csv = true) (k : List Chunk → State) : needContainer s k = k s.cs := if_pos h

/-- R37, R207: with CSV = 0 a command that reads CS raises NoContainer. -/
theorem raises_noContainer {i : Instr} {s : State} {k : List Chunk → State} (hi : exec i s = .next (needContainer s k))
    (h : s.csv = false) : Raises i s .noContainer 0 := by
  rw [needContainer, h] at hi
  exact raises_of_exec hi

theorem exec_pngAsBytes {s : State} (h : s.csv = true) :
    exec .pngAsBytes s = .next (deliver s (containerBytes s.cs).length (containerBytes s.cs)) :=
  congrArg Host.Outcome.next (needContainer_of_csv h _)

/-- Settles O43: PNG_AS_BYTES is the output of the container's bytes, whose number the invariant gives. -/
theorem pngAsBytesResult : Obligations.PngAsBytesResult := by
  refine ⟨rfl, fun s h n hn => ?_⟩
  obtain rfl := hn.trans (containerBytes_length_of_consistent fun c hc => (h.csConsistent c hc).1).symm
  refine ⟨raises_noContainer rfl, fun hcsv hlt => ?_, fun hcsv hfit => ?_⟩
  · have hexec := exec_pngAsBytes hcsv
    rw [deliver_of_lt hlt] at hexec
    exact raises_of_exec hexec
  · exact delivers_of_exec (exec_pngAsBytes hcsv) h rfl hfit

/-- R204: PNG_PARSE that ends without an error has parsed its input. -/
theorem parseStream_of_pngParse {s t : State} (h : exec .pngParse s = .next t) (hok : t.err = 0) :
    parseStream s.cfg s.input = .ok t.cs := by
  cases h
  rcases needInput_cases s _ with ⟨-, hin⟩ | ⟨-, hin⟩ <;> rw [hin] at hok ⊢
  · split at hok
    case h_1 => exact absurd hok (raise_err_ne_zero _ _ _)
    case h_2 cs hp => rw [hp]; rfl
  · exact absurd hok (raise_err_ne_zero _ _ _)

/-- R178: with room in OBUF, PNG_AS_BYTES succeeds and OBUF begins with the container's bytes. -/
theorem pngAsBytes_writes_containerBytes {t : State} (hwf : t.cfg.wf = true) (hcsv : t.csv = true)
    (hfit : (containerBytes t.cs).length ≤ t.cfg.pObufBytes) :
    ∃ u, exec .pngAsBytes t = .next u ∧ u.err = 0 ∧ u.olen.toNat = (containerBytes t.cs).length ∧
      ∀ a < (containerBytes t.cs).length, u.obuf.read? a = (containerBytes t.cs)[a]? := by
  have hexec := exec_pngAsBytes hcsv
  rw [deliver_of_le hfit] at hexec
  refine ⟨_, hexec, rfl, Nat.mod_eq_of_lt (hfit.trans_lt (Config.pObufBytes_lt hwf)), fun a ha => ?_⟩
  simp [Memory.read?_writeBytes, ha]

/-- Settles O44: the loop gathers a container from its bytes and, the converse, consumes exactly the frames it gathers. -/
theorem containerRoundTrip : Obligations.ContainerRoundTrip := by
  refine ⟨?_, fun s t h hok => ?_⟩
  · rintro s cs b hwf hc hcount hbytes rfl hle hfit hilen hread
    have hparse := parseStream_containerBytes hc hcount hbytes
    rw [← State.input_eq_of_read? hilen hread] at hparse
    have hexec := exec_pngParse_of_ok (hilen ▸ hle) hparse
    obtain ⟨u, hu⟩ := pngAsBytes_writes_containerBytes (t := complete { s with cs := cs, csv := true, res := _ }) hwf rfl hfit
    exact ⟨_, u, hexec, rfl, rfl, rfl, hu⟩
  · rw [← s.input_eq_map]
    exact containerBytes_of_parseStream (parseStream_of_pngParse h hok)

/-! PNG_APPEND (R175, R181) -/

section
variable {s : State} (hcrv : s.crv = true) (hcsv : s.csv = true)
include hcrv hcsv

theorem exec_pngAppend_of_full (h : s.cs.length + 1 > s.cfg.pMaxChunks ∨ storedBytes s.cs + s.cr.length.toNat > s.cfg.pStoreBytes) :
    exec .pngAppend s = .next (raise .capacityExceeded 0 s) := by
  rw [exec, execPngAppend, needChunk_of_crv hcrv, needContainer_of_csv hcsv, if_pos h]

theorem exec_pngAppend_of_room (hcount : s.cs.length + 1 ≤ s.cfg.pMaxChunks)
    (hbytes : storedBytes s.cs + s.cr.length.toNat ≤ s.cfg.pStoreBytes) :
    exec .pngAppend s = .next (complete { s with cs := s.cs ++ [s.cr] }) := by
  rw [exec, execPngAppend, needChunk_of_crv hcrv, needContainer_of_csv hcsv, if_neg (by omega)]

end

/-- Settles O40: the chunk is asked for first, then the container, then the room in the store. -/
theorem pngAppendResult : Obligations.PngAppendResult := by
  refine ⟨rfl, fun s => ⟨raises_noChunk rfl, fun hcrv hcsv => ?_, fun hcrv hcsv hfull => ?_, fun hcrv hcsv hcount hbytes => ?_⟩⟩
  · exact raises_noContainer (congrArg Host.Outcome.next (needChunk_of_crv hcrv _)) hcsv
  · exact raises_of_exec (exec_pngAppend_of_full hcrv hcsv hfull)
  · exact completes_of_exec (exec_pngAppend_of_room hcrv hcsv hcount hbytes)

/-- R175: PNG_APPEND that ends without an error has put CR at the end of CS. -/
theorem cs_of_pngAppend {s t : State} (h : exec .pngAppend s = .next t) (hok : t.err = 0) : t.cs = s.cs ++ [s.cr] := by
  cases h
  obtain ⟨-, hchunk⟩ := needChunk_of_ok hok
  rw [hchunk] at hok ⊢
  obtain ⟨-, hcontainer⟩ := needContainer_of_ok hok
  rw [hcontainer] at hok ⊢
  split at hok
  case isTrue => exact absurd hok (raise_err_ne_zero _ _ _)
  case isFalse hroom => rw [if_neg hroom, complete_cs]

/-- Settles O46: CR goes to the end of CS, and its frame to the end of the bytes. -/
theorem appendIsConcatenation : Obligations.AppendIsConcatenation := by
  intro s t h hok
  rw [cs_of_pngAppend h hok, containerBytes_append_singleton]

/-! The by-type search (R171, R172) -/

/-- R171: the key matches a type exactly when it is its four bytes. -/
theorem keyMatch_iff {key : List Byte} {t : Quad} : keyMatch key t = true ↔ key = t.bytes := decide_eq_true_iff

/-- R172: the search goes past an entry that `Passes`. -/
theorem findFrom_cons_of_passes {mode : NonUtf8Match} {key : List Byte} {c : Chunk} (h : Passes mode key c) (i : Nat)
    (cs : List Chunk) : findFrom mode key i (c :: cs) = findFrom mode key (i + 1) cs := by
  rw [findFrom_cons]
  cases mode with
  | noMatch =>
    split
    case isTrue htext => exact if_neg fun hkey => h ⟨htext, keyMatch_iff.1 hkey⟩
    case isFalse => rfl
  | fault =>
    obtain ⟨htext, hkey⟩ := h
    rw [if_pos htext, if_neg (hkey ∘ keyMatch_iff.1)]

/-- R172: the search goes past all entries before the one it stops at. -/
theorem findFrom_append_of_passes {mode : NonUtf8Match} {key : List Byte} {pre : List Chunk}
    (h : ∀ x ∈ pre, Passes mode key x) (i : Nat) (cs : List Chunk) :
    findFrom mode key i (pre ++ cs) = findFrom mode key (i + pre.length) cs := by
  induction pre generalizing i with
  | nil => rfl
  | cons c pre ih =>
    obtain ⟨hc, hpre⟩ := List.forall_mem_cons.1 h
    rw [List.cons_append, findFrom_cons_of_passes hc, ih hpre, List.length_cons, Nat.add_assoc, Nat.add_comm 1]

section
variable {cfg : Config} {key : List Byte} {pre : List Chunk} {c : Chunk} (hpre : ∀ x ∈ pre, Passes cfg.pNonUtf8Match key x)
include hpre

theorem findFirst_of_passes : findFirst cfg pre key = .none := by
  have h := findFrom_append_of_passes hpre 0 []
  rwa [List.append_nil] at h

/-- R172: the first entry that is text and equals the key is found. -/
theorem findFirst_of_match (post : List Chunk) (htext : utf8 c.type = true) (hkey : key = c.type.bytes) :
    findFirst cfg (pre ++ c :: post) key = .found pre.length c := by
  rw [findFirst, findFrom_append_of_passes hpre, findFrom_cons, if_pos htext, if_pos (keyMatch_iff.2 hkey), Nat.zero_add]

/-- R172: under `fault` the search stops at an entry that is not text. -/
theorem findFirst_of_not_text (post : List Chunk) (hmode : cfg.pNonUtf8Match = .fault) (htext : utf8 c.type = false) :
    findFirst cfg (pre ++ c :: post) key = .typeNotText pre.length := by
  rw [findFirst, findFrom_append_of_passes hpre, findFrom_cons, hmode, htext, Nat.zero_add]
  rfl

end

/-! PNG_REMOVE and PNG_CHUNK_BY_TYPE (R176, R177) -/

section
variable {s : State} (hcsv : s.csv = true) (hle : s.ilen.toNat ≤ s.cfg.pIbufBytes)
include hcsv hle

theorem exec_pngRemove_of_typeNotText {i : Nat} (h : findFirst s.cfg s.cs s.input = .typeNotText i) :
    exec .pngRemove s = .next (raise .typeNotText (BitVec.ofNat 32 i) s) := by
  simp only [exec, execPngRemove, needContainer_of_csv hcsv, needInput_of_le hle, h]

theorem exec_pngRemove_of_none (h : findFirst s.cfg s.cs s.input = .none) :
    exec .pngRemove s = .next (raise .chunkNotFound 0 s) := by
  simp only [exec, execPngRemove, needContainer_of_csv hcsv, needInput_of_le hle, h]

theorem exec_pngRemove_of_found {pre post : List Chunk} {c : Chunk} (hcs : s.cs = pre ++ c :: post)
    (h : findFirst s.cfg s.cs s.input = .found pre.length c) :
    exec .pngRemove s = .next (complete { s with cr := c, crv := true, res := BitVec.ofNat 32 pre.length, cs := pre ++ post }) := by
  have hrest : s.cs.take pre.length ++ s.cs.drop (pre.length + 1) = pre ++ post := by
    rw [← List.drop_drop, hcs, List.take_left, List.drop_left]
    rfl
  simp only [exec, execPngRemove, needContainer_of_csv hcsv, needInput_of_le hle, h, hrest]

theorem exec_pngChunkByType_of_typeNotText {i : Nat} (h : findFirst s.cfg s.cs s.input = .typeNotText i) :
    exec .pngChunkByType s = .next (raise .typeNotText (BitVec.ofNat 32 i) s) := by
  simp only [exec, execPngChunkByType, needContainer_of_csv hcsv, needInput_of_le hle, h]

theorem exec_pngChunkByType_of_none (h : findFirst s.cfg s.cs s.input = .none) :
    exec .pngChunkByType s = .next (complete { s with res := 0 }) := by
  simp only [exec, execPngChunkByType, needContainer_of_csv hcsv, needInput_of_le hle, h]

theorem exec_pngChunkByType_of_found {i : Nat} {c : Chunk} (h : findFirst s.cfg s.cs s.input = .found i c) :
    exec .pngChunkByType s = .next (complete { s with cr := c, crv := true, res := 1 }) := by
  simp only [exec, execPngChunkByType, needContainer_of_csv hcsv, needInput_of_le hle, h]

end

/-- Settles O41: the container is asked for first, then the input capacity is checked, then the search decides. -/
theorem pngRemoveResult : Obligations.PngRemoveResult := by
  refine ⟨rfl, fun s => ⟨raises_noContainer rfl, fun hcsv hlt => ?_, fun hcsv hle key hkey => ?_⟩⟩
  · exact raises_of_exec (congrArg Host.Outcome.next ((needContainer_of_csv hcsv _).trans (needInput_of_lt hlt _)))
  · obtain rfl := hkey.trans s.input_eq_map.symm
    refine ⟨fun pre post c hcs hpre => ⟨fun htext hmatch => ?_, fun hmode htext => ?_⟩, fun hpass => ?_⟩
    · exact completes_of_exec (exec_pngRemove_of_found hcsv hle hcs (hcs ▸ findFirst_of_match hpre post htext hmatch))
    · exact raises_of_exec (exec_pngRemove_of_typeNotText hcsv hle (hcs ▸ findFirst_of_not_text hpre post hmode htext))
    · exact raises_of_exec (exec_pngRemove_of_none hcsv hle (findFirst_of_passes hpass))

/-- Settles O42: the checks and the search of PNG_REMOVE; only what is written differs. -/
theorem pngChunkByTypeResult : Obligations.PngChunkByTypeResult := by
  refine ⟨rfl, fun s => ⟨raises_noContainer rfl, fun hcsv hlt => ?_, fun hcsv hle key hkey => ?_⟩⟩
  · exact raises_of_exec (congrArg Host.Outcome.next ((needContainer_of_csv hcsv _).trans (needInput_of_lt hlt _)))
  · obtain rfl := hkey.trans s.input_eq_map.symm
    refine ⟨fun pre post c hcs hpre => ⟨fun htext hmatch => ?_, fun hmode htext => ?_⟩, fun hpass => ?_⟩
    · exact completes_of_exec (exec_pngChunkByType_of_found hcsv hle (hcs ▸ findFirst_of_match hpre post htext hmatch))
    · exact raises_of_exec (exec_pngChunkByType_of_typeNotText hcsv hle (hcs ▸ findFirst_of_not_text hpre post hmode htext))
    · exact completes_of_exec (exec_pngChunkByType_of_none hcsv hle (findFirst_of_passes hpass))

/-- R172: the search goes past an entry of another type, if it is text or P_NONUTF8_MATCH is `no_match`. -/
theorem passes_of_type_ne {mode : NonUtf8Match} {q : Quad} {x : Chunk} (htext : mode = .noMatch ∨ utf8 x.type = true)
    (hne : x.type ≠ q) : Passes mode q.bytes x := by
  have hkey : q.bytes ≠ x.type.bytes := fun h => hne (Quad.bytes_inj h).symm
  cases mode with
  | noMatch => exact fun ⟨_, h⟩ => hkey h
  | fault => exact ⟨htext.resolve_left (by decide), hkey⟩

/-- Settles O45: the search goes past every chunk but the one removed, and the key stays in IBUF. -/
theorem removeThenLookupFindsNone : Obligations.RemoveThenLookupFindsNone := by
  intro s pre post c hcsv hle hcs hread hilen htext hmode hne
  have hlen : s.ilen.toNat = c.type.bytes.length := congrArg BitVec.toNat hilen
  rw [hlen] at hread
  have hsub : pre ++ post ⊆ s.cs := hcs ▸ ((List.sublist_cons_self c post).append_left pre).subset
  have hpass : ∀ x ∈ pre ++ post, Passes s.cfg.pNonUtf8Match c.type.bytes x := fun x hx =>
    passes_of_type_ne (hmode.imp_right fun h => h x (hsub hx)) (hne x hx)
  have hinput : ∀ t : State, t.ilen = s.ilen → t.ibuf = s.ibuf → t.input = c.type.bytes := fun t hi hb =>
    State.input_eq_of_read? (hi ▸ hlen) (hb ▸ hread)
  have hfound : findFirst s.cfg s.cs s.input = .found pre.length c := by
    rw [hinput s rfl rfl, hcs]
    exact findFirst_of_match (fun x hx => hpass x (List.mem_append_left _ hx)) post htext rfl
  have hremove := exec_pngRemove_of_found hcsv hle hcs hfound
  refine ⟨_, _, hremove, rfl, rfl, rfl, exec_pngChunkByType_of_none hcsv hle ?_, rfl, rfl, rfl⟩
  rw [hinput]
  · exact findFirst_of_passes hpass
  · rfl
  · rfl

/-! Which types are text (R172) -/

/-- The bytes lie in the ranges of one row of R172's table. -/
def FitsForm (form : List (Byte × Byte)) (p : List Byte) : Prop :=
  p.length = form.length ∧ ∀ x ∈ p.zip form, x.2.1 ≤ x.1 ∧ x.1 ≤ x.2.2

/-- A well-formed piece of R172: the bytes of some row of its table. -/
def Utf8Piece (p : List Byte) : Prop := ∃ form ∈ utf8Forms, FitsForm form p

theorem fitsForm_nil {p : List Byte} : FitsForm [] p ↔ p = [] := by simp [FitsForm]

theorem fitsForm_cons {r : Byte × Byte} {form : List (Byte × Byte)} {p : List Byte} :
    FitsForm (r :: form) p ↔ ∃ b q, p = b :: q ∧ (r.1 ≤ b ∧ b ≤ r.2) ∧ FitsForm form q := by
  cases p with
  | nil => simp [FitsForm]
  | cons b q => simp [FitsForm, and_left_comm]

/-- R172: a row takes a piece that fits it from the front. -/
theorem dropForm_eq_some_iff {form : List (Byte × Byte)} {s rest : List Byte} :
    dropForm form s = some rest ↔ ∃ p, FitsForm form p ∧ s = p ++ rest := by
  induction form generalizing s with
  | nil => simp [dropForm, fitsForm_nil]
  | cons r form ih =>
    cases s with
    | nil => simp [dropForm, fitsForm_cons]
    | cons b s => simp [dropForm, fitsForm_cons, ih, and_assoc]

/-- R172: every row has at least one byte. -/
theorem Utf8Piece.length_pos {p : List Byte} (h : Utf8Piece p) : 0 < p.length := by
  have hforms : ∀ form ∈ utf8Forms, 0 < form.length := by decide
  obtain ⟨form, hform, hlen, -⟩ := h
  exact hlen ▸ hforms form hform

@[simp] theorem splitsUtf8_nil (n : Nat) : splitsUtf8 n [] = true := by
  cases n <;> rfl

/-- R172: a nonempty sequence splits if a piece stands at its front and the rest splits. -/
theorem splitsUtf8_succ_iff {n : Nat} {s : List Byte} (hs : s ≠ []) :
    splitsUtf8 (n + 1) s = true ↔ ∃ p rest, Utf8Piece p ∧ s = p ++ rest ∧ splitsUtf8 n rest = true := by
  obtain ⟨b, bs, rfl⟩ := List.exists_cons_of_ne_nil hs
  rw [splitsUtf8, List.any_eq_true]
  constructor
  · rintro ⟨form, hform, h⟩
    split at h
    case h_1 rest hd =>
      obtain ⟨p, hp, hs⟩ := dropForm_eq_some_iff.1 hd
      exact ⟨p, rest, ⟨form, hform, hp⟩, hs, h⟩
    case h_2 => cases h
  · rintro ⟨p, rest, ⟨form, hform, hp⟩, hs, h⟩
    refine ⟨form, hform, ?_⟩
    rw [dropForm_eq_some_iff.2 ⟨p, hp, hs⟩]
    exact h

/-- R172: as many pieces as bytes are enough for any concatenation of pieces. -/
theorem splitsUtf8_iff {n : Nat} {s : List Byte} (hn : s.length ≤ n) :
    splitsUtf8 n s = true ↔ ∃ pieces : List (List Byte), pieces.flatten = s ∧ ∀ p ∈ pieces, Utf8Piece p := by
  induction n generalizing s with
  | zero =>
    obtain rfl := List.eq_nil_of_length_eq_zero (Nat.le_zero.1 hn)
    exact iff_of_true (splitsUtf8_nil 0) ⟨[], rfl, by simp⟩
  | succ n ih =>
    rcases eq_or_ne s [] with rfl | hs
    · exact iff_of_true (splitsUtf8_nil _) ⟨[], rfl, by simp⟩
    rw [splitsUtf8_succ_iff hs]
    constructor
    · rintro ⟨p, rest, hp, rfl, hsplits⟩
      have hpos := hp.length_pos
      obtain ⟨pieces, rfl, hpieces⟩ := (ih (by rw [List.length_append] at hn; omega)).1 hsplits
      exact ⟨p :: pieces, rfl, List.forall_mem_cons.2 ⟨hp, hpieces⟩⟩
    · rintro ⟨pieces, rfl, h⟩
      cases pieces with
      | nil => exact absurd rfl hs
      | cons p pieces =>
        obtain ⟨hp, hpieces⟩ := List.forall_mem_cons.1 h
        have hpos := hp.length_pos
        rw [List.flatten_cons, List.length_append] at hn
        exact ⟨p, pieces.flatten, hp, List.flatten_cons, (ih (by omega)).2 ⟨pieces, rfl, hpieces⟩⟩

/-- R172: a type is text exactly when its bytes are a concatenation of pieces. -/
theorem utf8_iff (t : Quad) :
    utf8 t = true ↔ ∃ pieces : List (List Byte), pieces.flatten = t.bytes ∧ ∀ p ∈ pieces, Utf8Piece p :=
  splitsUtf8_iff (Nat.le_refl 4)

/-- R172, the first row: an ASCII byte is a piece. -/
theorem utf8Piece_singleton {b : Byte} (h : b.toNat < 0x80) : Utf8Piece [b] :=
  ⟨[(0x00, 0x7F)], by decide, rfl, by simp [BitVec.le_def]; omega⟩

/-- R172: four ASCII bytes are text. -/
theorem utf8_of_ascii {t : Quad} (h : ∀ b ∈ t.bytes, b.toNat < 0x80) : utf8 t = true := by
  refine (utf8_iff t).2 ⟨t.bytes.map ([·]), rfl, fun p hp => ?_⟩
  obtain ⟨b, hb, rfl⟩ := List.mem_map.1 hp
  exact utf8Piece_singleton (h b hb)

/-- R172: over entries that are text the search does not depend on P_NONUTF8_MATCH. -/
theorem findFrom_of_text (mode mode' : NonUtf8Match) (key : List Byte) (i : Nat) {cs : List Chunk}
    (h : ∀ x ∈ cs, utf8 x.type = true) : findFrom mode key i cs = findFrom mode' key i cs := by
  induction cs generalizing i with
  | nil => rfl
  | cons c cs ih =>
    obtain ⟨hc, hcs⟩ := List.forall_mem_cons.1 h
    rw [findFrom_cons, findFrom_cons, if_pos hc, if_pos hc, ih (i + 1) hcs]

/-- Settles O47: a type is text exactly when it is a concatenation of pieces, and each ASCII byte is a piece. -/
theorem asciiTypesAreText : Obligations.AsciiTypesAreText :=
  ⟨fun _ => utf8_of_ascii, fun _ _ _ key h => findFrom_of_text _ _ key 0 fun x hx => utf8_of_ascii (h x hx), utf8_iff, by decide⟩

end Sys2Proof.Machine
end

section
/-! ## The exceptions: how a command ends, what it reports and which valid bits it sets (60_exceptions.md) -/

namespace Sys2Proof.Machine

/-- Settles O10: with nothing pending the block's turn only moves the schedule on. -/
theorem idleBlockHoldsItsState : Obligations.IdleBlockHoldsItsState := by
  intro s hturn hp
  have hstep : step s = .next s.endTurn := by simp only [step, hturn, blockStep, State.endTurn_pending, hp]
  exact ⟨_, hstep, rfl, rfl, rfl⟩

/-- Settles O12: of the two ways a command ends only `raise` leaves ERR not 0, and it writes the report only. -/
theorem errorsChangeOnlyTheReport : Obligations.ErrorsChangeOnlyTheReport := by
  intro i s t h herr
  rcases exec_ends h with ⟨e, info, -, rfl⟩ | ⟨s', rfl, -⟩
  · exact ⟨e, info, rfl⟩
  · exact absurd rfl herr

/-- Settles O13: of the two ways a command ends only `complete` leaves ERR 0, and no command but SRST writes the report itself. -/
theorem successKeepsStickyAndErrorAddress : Obligations.SuccessKeepsStickyAndErrorAddress := by
  intro i s t h hok
  rcases exec_ends h with ⟨e, info, -, rfl⟩ | ⟨s', rfl, -, -, -, -, -, -, hreport, -⟩
  · exact absurd hok (raise_err_ne_zero e info s)
  · refine ⟨rfl, fun hi => ?_⟩
    obtain ⟨-, -, hsticky, haddr⟩ := hreport hi
    exact ⟨hsticky, haddr⟩

/-! The information words of PNG_PARSE and of the by-type search (R172, R174) -/

/-- R174: the loop reports an offset at which bytes are left. -/
theorem parseLoop_error_offset {cfg : Config} {fuel : Nat} {rest : List Byte} {off total : Nat} {acc : List Chunk} {e : ErrKind} {o : Nat}
    (h : parseLoop cfg fuel rest off acc total = .error e o) : off ≤ o ∧ o < off + rest.length := by
  induction fuel generalizing rest off acc total with
  | zero =>
    cases rest with
    | nil => cases h
    | cons b bs => cases h; simp
  | succ n ih =>
    cases rest with
    | nil => cases h
    | cons b bs =>
      rw [parseLoop_cons] at h
      split at h
      case h_1 | h_2 => cases h; simp
      case h_3 c k hp =>
        split at h
        case isTrue => cases h; simp
        case isFalse =>
          obtain ⟨-, hk, -⟩ := parseChunk_ok hp
          have hrec := ih h
          rw [List.length_drop] at hrec
          omega

/-- R174: the signature is reported with 0, a chunk with its offset in the stream. -/
theorem parseStream_error_offset {cfg : Config} {b : List Byte} {e : ErrKind} {o : Nat} (h : parseStream cfg b = .error e o) :
    (e = .invalidSignature ∧ o = 0) ∨
      ((e = .truncated ∨ e = .checksumMismatch ∨ e = .capacityExceeded) ∧ 8 ≤ o ∧ o < b.length) := by
  unfold parseStream at h
  split at h
  case isTrue => cases h; exact .inl ⟨rfl, rfl⟩
  case isFalse hsig =>
    have ho := parseLoop_error_offset h
    rw [List.length_drop] at ho
    exact .inr ⟨parseLoop_error h, by omega⟩

/-- R172: TypeNotText is reported with the index of an entry. -/
theorem findFrom_typeNotText_lt {mode : NonUtf8Match} {key : List Byte} {i j : Nat} {cs : List Chunk}
    (h : findFrom mode key i cs = .typeNotText j) : j < i + cs.length := by
  induction cs generalizing i with
  | nil => cases h
  | cons c cs ih =>
    have hrec (hn : findFrom mode key (i + 1) cs = .typeNotText j) : j < i + (cs.length + 1) := by
      have := ih hn
      omega
    rw [findFrom_cons] at h
    split at h
    case isTrue =>
      split at h
      case isTrue => cases h
      case isFalse => exact hrec h
    case isFalse =>
      cases mode with
      | fault => cases h; simp
      | noMatch => exact hrec h

/-! How each command ends: the errors of R200 with the information word of R201, and the valid bits of R35 to R37 -/

/-- R201: the information word the command `i` reports the error `e` with. -/
def InfoOf (i : Instr) (s : State) (e : ErrKind) (info : Word) : Prop :=
  info = 0 ∨
  (i = .pngParse ∧ (e = .truncated ∨ e = .checksumMismatch ∨ e = .capacityExceeded) ∧ 8 ≤ info.toNat ∧ info.toNat < s.ilen.toNat) ∨
  (e = .typeNotText ∧ info.toNat < s.cs.length)

/-- R35, R36, R37: the valid bits of `u`, the state in which the command `i` comes to `complete`. -/
def SetsValidBits (i : Instr) (s u : State) : Prop :=
  (u.trv = true ↔ i ≠ .srst ∧ (s.trv = true ∨ i ∈ [Instr.ctFromBytes, .ctFromString, .chunkType])) ∧
  (u.crv = true ↔ i ≠ .srst ∧ (s.crv = true ∨ i ∈ [Instr.chunkNew, .chunkParse, .pngRemove] ∨ (i = .pngChunkByType ∧ u.res = 1))) ∧
  (u.csv = true ↔ i ≠ .srst ∧ (s.csv = true ∨ i = .pngParse))

/-- The command `i` on `s` ends in the given state: with an error of its list, or with success after it has set its valid bits. -/
inductive EndsAs (i : Instr) (s : State) : State → Prop where
  | raised {e : ErrKind} {info : Word} (he : e ∈ errorsOf i) (hinfo : InfoOf i s e info) : EndsAs i s (raise e info s)
  | completed {u : State} (h : SetsValidBits i s u) : EndsAs i s (complete u)

section
variable {i : Instr} {s : State}

theorem endsAs_raise_zero {e : ErrKind} (he : e ∈ errorsOf i) : EndsAs i s (raise e 0 s) := .raised he (.inl rfl)

theorem needType_endsAs {k : Quad → State} (hi : .noType ∈ errorsOf i) (hk : EndsAs i s (k s.tr)) : EndsAs i s (needType s k) := by
  rcases needType_cases s k with ⟨-, h⟩ | ⟨-, h⟩ <;> rw [h]
  · exact hk
  · exact endsAs_raise_zero hi

theorem needChunk_endsAs {k : Chunk → State} (hi : .noChunk ∈ errorsOf i) (hk : EndsAs i s (k s.cr)) : EndsAs i s (needChunk s k) := by
  rcases needChunk_cases s k with ⟨-, h⟩ | ⟨-, h⟩ <;> rw [h]
  · exact hk
  · exact endsAs_raise_zero hi

theorem needContainer_endsAs {k : List Chunk → State} (hi : .noContainer ∈ errorsOf i) (hk : EndsAs i s (k s.cs)) :
    EndsAs i s (needContainer s k) := by
  rcases needContainer_cases s k with ⟨-, h⟩ | ⟨-, h⟩ <;> rw [h]
  · exact hk
  · exact endsAs_raise_zero hi

theorem needInput_endsAs {k : List Byte → State} (hi : .capacityExceeded ∈ errorsOf i) (hk : EndsAs i s (k s.input)) :
    EndsAs i s (needInput s k) := by
  rcases needInput_cases s k with ⟨-, h⟩ | ⟨-, h⟩ <;> rw [h]
  · exact hk
  · exact endsAs_raise_zero hi

/-- The commands that set no valid bit and clear none. -/
theorem setsValidBits_of_kept {u : State}
    (hi : i ∉ [Instr.srst, .ctFromBytes, .ctFromString, .chunkType, .chunkNew, .chunkParse, .pngRemove, .pngChunkByType, .pngParse])
    (htrv : u.trv = s.trv) (hcrv : u.crv = s.crv) (hcsv : u.csv = s.csv) : SetsValidBits i s u := by
  simp only [List.mem_cons, List.not_mem_nil, or_false, not_or] at hi
  simp [SetsValidBits, hi, htrv, hcrv, hcsv]

theorem deliver_endsAs {n : Nat} {b : List Byte} (hi : i ∈ outputWriters) : EndsAs i s (deliver s n b) := by
  rcases deliver_cases s n b with ⟨-, h⟩ | ⟨-, h⟩ <;> rw [h]
  · exact .completed (setsValidBits_of_kept (by revert i; decide) rfl rfl rfl)
  · exact endsAs_raise_zero (by revert i; decide)

theorem typeQuery_endsAs {f : Quad → Word} (hi : i ∈ typeReaders) (hne : i ≠ .chunkNew) : EndsAs i s (typeQuery f s) :=
  needType_endsAs (by revert i; decide) (.completed (setsValidBits_of_kept (by revert i; decide) rfl rfl rfl))

/-- R172, R201: what the two by-type searches report of an entry that is not text. -/
theorem endsAs_raise_typeNotText {j : Nat} (hi : .typeNotText ∈ errorsOf i) (h : findFirst s.cfg s.cs s.input = .typeNotText j) :
    EndsAs i s (raise .typeNotText (BitVec.ofNat 32 j) s) := by
  have hj := findFrom_typeNotText_lt h
  have hmod := Nat.mod_le j (2 ^ 32)
  exact .raised hi (.inr (.inr ⟨rfl, by rw [BitVec.toNat_ofNat]; omega⟩))

/-- R174, R201: what PNG_PARSE reports of its input. The offset fits in EADDR because ILEN is a word. -/
theorem endsAs_raise_of_parseStream {e : ErrKind} {o : Nat} (h : parseStream s.cfg s.input = .error e o) :
    EndsAs .pngParse s (raise e (BitVec.ofNat 32 o) s) := by
  rcases parseStream_error_offset h with ⟨rfl, rfl⟩ | ⟨he, hlo, hhi⟩
  · exact endsAs_raise_zero (by decide)
  · rw [s.input_length] at hhi
    have ho : (BitVec.ofNat 32 o).toNat = o := Nat.mod_eq_of_lt (hhi.trans s.ilen.isLt)
    refine .raised (by rcases he with rfl | rfl | rfl <;> decide) (.inr (.inl ⟨rfl, he, ?_⟩))
    rw [ho]
    exact ⟨hlo, hhi⟩

end

/-- R200, R201, R207: how every command ends. -/
theorem exec_endsAs {i : Instr} {s t : State} (h : exec i s = .next t) : EndsAs i s t := by
  cases i with cases h
  | srst => exact .completed (by simp [SetsValidBits])
  | ctFromBytes => exact .completed (by simp [SetsValidBits])
  | ctFromString =>
    refine needInput_endsAs (by decide) ?_
    split
    case isTrue => exact endsAs_raise_zero (by decide)
    case isFalse =>
      split
      case isTrue => exact .completed (by simp [SetsValidBits])
      case isFalse => exact endsAs_raise_zero (by decide)
  | ctBytes | ctIsCritical | ctIsPublic | ctIsReservedBitValid | ctIsSafeToCopy | ctIsValid =>
    exact typeQuery_endsAs (by decide) (by decide)
  | crcCompute => exact needInput_endsAs (by decide) (.completed (setsValidBits_of_kept (by decide) rfl rfl rfl))
  | chunkNew =>
    exact needType_endsAs (by decide) (needInput_endsAs (by decide) (.completed (by simp [SetsValidBits])))
  | chunkParse =>
    refine needInput_endsAs (by decide) ?_
    split
    case h_1 | h_2 => exact endsAs_raise_zero (by decide)
    case h_3 => exact .completed (by simp [SetsValidBits])
  | chunkAsBytes | chunkData => exact needChunk_endsAs (by decide) (deliver_endsAs (by decide))
  | chunkLength | chunkCrc => exact needChunk_endsAs (by decide) (.completed (setsValidBits_of_kept (by decide) rfl rfl rfl))
  | chunkType => exact needChunk_endsAs (by decide) (.completed (by simp [SetsValidBits]))
  | pngParse =>
    refine needInput_endsAs (by decide) ?_
    split
    case h_1 hp => exact endsAs_raise_of_parseStream hp
    case h_2 => exact .completed (by simp [SetsValidBits])
  | pngAppend =>
    refine needChunk_endsAs (by decide) (needContainer_endsAs (by decide) ?_)
    split
    case isTrue => exact endsAs_raise_zero (by decide)
    case isFalse => exact .completed (setsValidBits_of_kept (by decide) rfl rfl rfl)
  | pngRemove =>
    refine needContainer_endsAs (by decide) (needInput_endsAs (by decide) ?_)
    split
    case h_1 hf => exact endsAs_raise_typeNotText (by decide) hf
    case h_2 => exact endsAs_raise_zero (by decide)
    case h_3 => exact .completed (by simp [SetsValidBits])
  | pngChunkByType =>
    refine needContainer_endsAs (by decide) (needInput_endsAs (by decide) ?_)
    split
    case h_1 hf => exact endsAs_raise_typeNotText (by decide) hf
    case h_2 | h_3 => exact .completed (by simp [SetsValidBits])
  | pngAsBytes => exact needContainer_endsAs (by decide) (deliver_endsAs (by decide))

/-- Settles O14: a command that fails ends with an error of its list. -/
theorem onlyListedErrorsAreRaised : Obligations.OnlyListedErrorsAreRaised := by
  refine ⟨by decide, fun i s t _ h herr => ?_⟩
  cases exec_endsAs h with
  | @raised e info he hinfo => exact ⟨e, he, rfl, hinfo⟩
  | completed => exact absurd rfl herr

/-! A command that reads an empty value register, or more input than IBUF holds (R202, R206, R207) -/

section
variable {i : Instr} (s : State)

theorem exec_of_mem_typeReaders (hi : i ∈ typeReaders) : ∃ k, exec i s = .next (needType s k) := by
  cases i with
  | ctBytes | ctIsCritical | ctIsPublic | ctIsReservedBitValid | ctIsSafeToCopy | ctIsValid | chunkNew => exact ⟨_, rfl⟩
  | _ => exact absurd hi (by decide)

theorem exec_of_mem_chunkReaders (hi : i ∈ chunkReaders) : ∃ k, exec i s = .next (needChunk s k) := by
  cases i with
  | chunkAsBytes | chunkLength | chunkType | chunkCrc | chunkData | pngAppend => exact ⟨_, rfl⟩
  | _ => exact absurd hi (by decide)

theorem exec_of_mem_containerReaders (hi : i ∈ containerReaders) : ∃ k, exec i s = .next (needContainer s k) := by
  cases i with
  | pngRemove | pngChunkByType | pngAsBytes => exact ⟨_, rfl⟩
  | _ => exact absurd hi (by decide)

variable {s}

/-- R202: once the valid bits are 1, a command that reads IBUF checks the input capacity first. -/
theorem exec_of_mem_inputReaders (hi : i ∈ inputReaders) (htrv : i ∈ typeReaders → s.trv = true)
    (hcsv : i ∈ containerReaders → s.csv = true) : ∃ k, exec i s = .next (needInput s k) := by
  cases i with
  | ctFromString | crcCompute | chunkParse | pngParse => exact ⟨_, rfl⟩
  | chunkNew => exact ⟨_, congrArg Host.Outcome.next (needType_of_trv (htrv (by decide)) _)⟩
  | pngRemove | pngChunkByType => exact ⟨_, congrArg Host.Outcome.next (needContainer_of_csv (hcsv (by decide)) _)⟩
  | _ => exact absurd hi (by decide)

end

/-- Settles O17: once its value registers are valid, such a command comes to the check of the input capacity. -/
theorem inputBeyondCapacityIsReported : Obligations.InputBeyondCapacityIsReported := by
  intro i s hi htrv hcsv hlt
  obtain ⟨k, hk⟩ := exec_of_mem_inputReaders hi htrv hcsv
  rw [needInput_of_lt hlt] at hk
  exact raises_of_exec hk

/-- Settles O16: a success sets the bits `SetsValidBits` says, an error none; an empty value register is the first thing reported. -/
theorem validBitsFollowTheValueRegisters : Obligations.ValidBitsFollowTheValueRegisters := by
  refine ⟨fun i s t h => ?_, fun i s htrv hi => ?_, fun i s hcrv hi => ?_, fun i s hcsv hi => ?_, fun s hcrv hcsv => ?_⟩
  · cases exec_endsAs h with
    | @raised e info he =>
      have hi : i ≠ .srst := by rintro rfl; exact List.not_mem_nil he
      have herr : e.code ≠ 0#4 := raise_err_ne_zero e info s
      simp [hi, herr]
    | completed hbits => simpa [SetsValidBits] using hbits
  · obtain ⟨k, hk⟩ := exec_of_mem_typeReaders s hi
    rw [needType_of_empty htrv] at hk
    exact raises_of_exec hk
  · obtain ⟨k, hk⟩ := exec_of_mem_chunkReaders s hi
    exact raises_noChunk hk hcrv
  · obtain ⟨k, hk⟩ := exec_of_mem_containerReaders s hi
    exact raises_noContainer hk hcsv
  · exact raises_noContainer (congrArg Host.Outcome.next (needChunk_of_crv hcrv _)) hcsv

end Sys2Proof.Machine
end

section
/-! ## Reset and hazards: SRST, power-on reset, and what becomes of an accepted command word (70_reset_and_hazards.md) -/

namespace Sys2Proof.Machine

/-! Reset -/

/-- R33: STATUS reads 0 exactly when no error, no flag and no pending command stands. -/
theorem statusWord_eq_zero_iff (s : State) : s.statusWord = 0 ↔
    s.pending = none ∧ s.err = 0 ∧ s.trv = false ∧ s.crv = false ∧ s.csv = false ∧ s.esticky = false := by
  constructor
  · intro h0
    obtain ⟨herr, -, htrv, hcrv, hcsv, -, hst, hbusy, -⟩ := statusLayout s
    simp only [h0] at herr htrv hcrv hcsv hst hbusy
    exact ⟨by simpa using hbusy.symm, herr.symm, htrv.symm, hcrv.symm, hcsv.symm, hst.symm⟩
  · rintro ⟨hp, herr, htrv, hcrv, hcsv, hst⟩
    simp [State.statusWord, State.busy, flagBit, hp, herr, htrv, hcrv, hcsv, hst]

/-- Settles O2: SRST's writes on the record; where STATUS reads 0 and the rest of it stands at its reset value they write what is there. -/
theorem softResetResult : Obligations.SoftResetResult := by
  refine ⟨rfl, fun s => ⟨_, rfl, rfl, ?_, rfl⟩, ?_⟩
  · exact (statusWord_eq_zero_iff _).2 ⟨rfl, rfl, rfl, rfl, rfl, rfl⟩
  · intro s hstatus hcs harg hres hilen holen headdr
    obtain ⟨hp, herr, htrv, hcrv, hcsv, hst⟩ := (statusWord_eq_zero_iff s).1 hstatus
    refine ⟨_, rfl, ?_⟩
    simp [State.record, hp, herr, htrv, hcrv, hcsv, hst, hcs, harg, hres, hilen, holen, headdr]

/-- R230: the platform's turn is a power-on reset, whatever is pending. -/
theorem step_of_powerOn {s : State} (ht : s.turn = .powerOn) : step s = .next s.endTurn.powerOnReset := by
  simp only [step, ht]

/-- Settles O3: the reset leaves the power-on record, in which nothing is pending, so CMD accepts any word. -/
theorem powerOnResetDiscardsThePendingCommand : Obligations.PowerOnResetDiscardsThePendingCommand := by
  intro s ht
  refine ⟨_, step_of_powerOn ht, rfl, rfl, rfl, fun w => ?_⟩
  have hidle : s.endTurn.powerOnReset.pending = none := rfl
  exact ⟨_, (hostWrite_regAccess _ .cmd w).trans (writeReg_cmd hidle w), rfl⟩

/-- Settles O4: the power-on state meets the invariant, and State.reset is one, with parameters R8 allows. -/
theorem resetMeetsTheInvariant : Obligations.ResetMeetsTheInvariant :=
  ⟨fun _ => powerOn_inv, powerOn_inv (by decide)⟩

/-! What the host is refused for: an access outside its contract (R68, R240), never a meaning the model lacks -/

theorem accessRefusal_ne_notModelled (cfg : Config) (a : Access) (isWrite : Bool) (m : String) :
    accessRefusal cfg a isWrite ≠ some (.notModelled m) := by
  unfold accessRefusal
  split <;> (repeat' split) <;> simp

theorem hostRead_ne_notModelled (a : Access) (s : State) (m : String) : hostRead a s ≠ .error (.notModelled m) := by
  have hne := accessRefusal_ne_notModelled s.cfg a false m
  unfold hostRead
  split
  case h_1 r hr => rintro ⟨⟩; exact hne hr
  case h_2 => split <;> simp

theorem writeReg_ne_notModelled (s : State) (r : HostReg) (v : Word) (m : String) : s.writeReg r v ≠ .error (.notModelled m) := by
  cases r with
  | cmd | arg | ilen => unfold State.writeReg; dsimp only; split <;> simp
  | status | res | olen | eaddr | ccount => simp [State.writeReg]

theorem writeOffset_ne_notModelled (s : State) (off : Nat) (v : Word) (m : String) :
    s.writeOffset off v ≠ .error (.notModelled m) := by
  unfold State.writeOffset
  split
  case h_1 r _ => exact writeReg_ne_notModelled s r v m
  case h_2 => simp

theorem writeIbuf_ne_notModelled (s : State) (a : Nat) (b : Byte) (m : String) : s.writeIbuf a b ≠ .error (.notModelled m) := by
  unfold State.writeIbuf
  split <;> simp

theorem hostWrite_ne_notModelled (a : Access) (v : Word) (s : State) (m : String) : hostWrite a v s ≠ .error (.notModelled m) := by
  have hne := accessRefusal_ne_notModelled s.cfg a true m
  unfold hostWrite
  split
  case h_1 r hr => rintro ⟨⟩; exact hne hr
  case h_2 =>
    split
    · exact writeOffset_ne_notModelled s _ v m
    · exact writeIbuf_ne_notModelled s _ _ m
    · simp

/-- An access whose result the host goes on with is refused for the access's own reason. -/
theorem ofAccess_ne_refused {α : Type} {r : Except Refusal α} {e : Refusal} (hr : r ≠ .error e) (k : α → State) :
    ofAccess r (fun x => .next (k x)) ≠ .refused e := by
  cases r with
  | ok x => simp [ofAccess]
  | error e' => simpa [ofAccess] using hr

theorem hostMove_ne_notModelled (s : State) (mv : HostMove) (m : String) : hostMove s mv ≠ .refused (.notModelled m) := by
  cases mv with
  | write a v => exact ofAccess_ne_refused (hostWrite_ne_notModelled a v s m) _
  | read a x | readByte a x => exact ofAccess_ne_refused (hostRead_ne_notModelled a s m) _
  | poll => exact ofAccess_ne_refused (hostRead_ne_notModelled _ s m) _
  | test => simp [hostMove]

/-- R68, R240: a step of the host is refused only for a move outside its contract. -/
theorem hostStep_ne_notModelled (s : State) (m : String) : hostStep s ≠ .refused (.notModelled m) := by
  intro h
  obtain ⟨mv, ms, -, hmv⟩ := hostStep_refused h
  exact hostMove_ne_notModelled _ mv m hmv

/-! An accepted command word waits for the block's turn -/

/-- R240: while BUSY = 1 a step of the host changes nothing but the host. -/
theorem hostStep_of_busy {s t : State} (hb : s.busy = true) (h : hostStep s = .next t) : ∃ hs, t = { s with host := hs } := by
  obtain ⟨hs, v, a, rfl | ⟨hidle, -⟩⟩ := hostStep_next h
  · exact ⟨hs, rfl⟩
  · simp [hb] at hidle

/-- R32, R205: a word, legal or not, is performed in one step, which clears BUSY. -/
theorem perform_next (w : Word) (s : State) : ∃ u, perform w s = .next u ∧ u.pending = none := by
  rcases perform_cases w s with ⟨i, -, hw⟩ | ⟨why, -, hw⟩
  · obtain ⟨u, hu, hdone, -⟩ := everyCommandEndsInOneStep i s
    exact ⟨u, hw.trans hu, hdone⟩
  · exact ⟨_, hw, rfl⟩

/-- R32: the block's turn performs the pending word and clears BUSY. -/
theorem step_performs_pending {s : State} {w : Word} (ht : s.turn = .block) (hp : s.pending = some w) :
    ∃ u, step s = .next u ∧ u.pending = none ∧ perform w s.endTurn = .next u := by
  obtain ⟨u, hu, hdone⟩ := perform_next w s.endTurn
  exact ⟨u, (step_of_pending ht hp).trans hu, hdone, hu⟩

/-- Settles O54, by induction on the schedule: a turn of the host leaves the word pending or is refused, the block's performs it, a
power-on reset discards it; past the schedule's end the turn is the block's. -/
theorem acceptedCommandIsPerformed : Obligations.AcceptedCommandIsPerformed := by
  intro s w hp
  have hbusy : s.busy = true := by simp [State.busy, hp]
  induction hsched : s.sched generalizing s with
  | nil =>
    have hturn : s.turn = .block := by simp [State.turn, hsched, hbusy]
    obtain ⟨u, hstep, hdone, hperf⟩ := step_performs_pending hturn hp
    exact ⟨0, Nat.zero_le _, .inl ⟨s, u, rfl, hp, hstep, hdone, .inr ⟨hturn, hperf⟩⟩⟩
  | cons turn rest ih =>
    have hturn : s.turn = turn := by simp [State.turn, hsched]
    cases turn with
    | block =>
      obtain ⟨u, hstep, hdone, hperf⟩ := step_performs_pending hturn hp
      exact ⟨0, Nat.zero_le _, .inl ⟨s, u, rfl, hp, hstep, hdone, .inr ⟨hturn, hperf⟩⟩⟩
    | powerOn => exact ⟨0, Nat.zero_le _, .inl ⟨s, _, rfl, hp, step_of_powerOn hturn, rfl, .inl hturn⟩⟩
    | host =>
      have hhost := step_of_host hturn
      cases hmove : hostStep s.endTurn with
      | fault f => cases f
      | refused r =>
        refine ⟨0, Nat.zero_le _, .inr ⟨r, core_run_refused (hhost.trans hmove) 0, ?_⟩⟩
        rintro m rfl
        exact hostStep_ne_notModelled _ m hmove
      | next t =>
        obtain ⟨hs, rfl⟩ := hostStep_of_busy (s := s.endTurn) hbusy hmove
        obtain ⟨k, hk, hrun⟩ := ih { s.endTurn with host := hs } hp hbusy (congrArg List.tail hsched)
        refine ⟨k + 1, Nat.succ_le_succ hk, ?_⟩
        rw [core_run_next (hhost.trans hmove), core_run_next (hhost.trans hmove)]
        exact hrun

end Sys2Proof.Machine
end
